-- ==== Sys2Proof/Word.lean ====
section
/-! DEFINITION. The word types of the rANS32 codec block: bus words, 16-bit samples and frequencies, payload
bytes and 12-bit symbols (00_scope.md R8, 20_memory.md R83). -/

namespace Sys2Proof

/-- A register or a bus word (R32, R83). -/
abbrev Word := BitVec 32

/-- A sample, a residual or a frequency (R54, R57, R59). -/
abbrev Half := BitVec 16

/-- A payload byte (R58). -/
abbrev Byte := BitVec 8

/-- A symbol of the alphabet 0 to 4095, also a table slot and a cumulative frequency (R55, R56, R124). -/
abbrev Sym := BitVec 12

end Sys2Proof
end

