-- ==== Sys2Proof/Syntax.lean ====
section
/-! DEFINITION. The instruction set: the 15 commands of spec/opcode_table.json (30_encoding.md R126), one
constructor a row. An operand has exactly the width its field has (R123, R124), so no operand is out of range. -/

namespace Sys2Proof

/-- The commands of R126. VAL16 operands are kept as 16 bits: how a command reads them is its own rule (R125). -/
inductive Instr where
  | nop
  | clrFault
  | softReset
  | predInit
  | predRes (val16 : Half)
  | predRec (val16 : Half)
  | symInit
  | symEnc (val16 : Half)
  | symDec (sym12 : Sym)
  | modelBuild
  | ransEncInit
  | ransEnc (sym12 : Sym)
  | ransEncFlush
  | ransDecInit
  | ransDec
  deriving DecidableEq, Repr

end Sys2Proof
end

