-- ==== Sys2Proof/Decode.lean ====
section
/-! DEFINITION. Decoding and encoding of command words (30_encoding.md R120 to R130). Decoding is total: every
32-bit word is one command with its operand, or illegal (R130). -/

namespace Sys2Proof

/-- OP = w[31:24] (R121). -/
def opField (w : Word) : BitVec 8 := w.extractLsb' 24 8

/-- VAL16 = w[15:0] (R123). -/
def val16Field (w : Word) : Half := w.extractLsb' 0 16

/-- SYM12 = w[11:0] (R124). -/
def sym12Field (w : Word) : Sym := w.extractLsb' 0 12

/-- Format N: the command, when RSVD = w[23:0] is 0 (R122, R127). -/
def formatN (w : Word) (i : Instr) : Option Instr :=
  if w.extractLsb' 0 24 = 0#24 then some i else none

/-- Format V: the command with VAL16, when RSVD = w[23:16] is 0 (R123, R127). -/
def formatV (w : Word) (i : Half → Instr) : Option Instr :=
  if w.extractLsb' 16 8 = 0#8 then some (i (val16Field w)) else none

/-- Format S: the command with SYM12, when RSVD = w[23:12] is 0 (R124, R127). -/
def formatS (w : Word) (i : Sym → Instr) : Option Instr :=
  if w.extractLsb' 12 12 = 0#12 then some (i (sym12Field w)) else none

/-- The opcode map (R126). `none` is an illegal word: OP outside the map, or a reserved field that is not 0 (R127).
DEDUCED (log entry 8): R127's formula `w & ~mask != 0` is read as its own words, "a reserved field is non-zero". -/
def decode (w : Word) : Option Instr :=
  match opField w with
  | 0x00#8 => formatN w .nop
  | 0x01#8 => formatN w .clrFault
  | 0x02#8 => formatN w .softReset
  | 0x10#8 => formatN w .predInit
  | 0x11#8 => formatV w .predRes
  | 0x12#8 => formatV w .predRec
  | 0x20#8 => formatN w .symInit
  | 0x21#8 => formatV w .symEnc
  | 0x22#8 => formatS w .symDec
  | 0x30#8 => formatN w .modelBuild
  | 0x40#8 => formatN w .ransEncInit
  | 0x41#8 => formatS w .ransEnc
  | 0x42#8 => formatN w .ransEncFlush
  | 0x48#8 => formatN w .ransDecInit
  | 0x49#8 => formatN w .ransDec
  | _ => none

/-- The word of a command: {OP, 0, operand} (R122 to R126). -/
def encode : Instr → Word
  | .nop          => 0x00#8 ++ 0#24
  | .clrFault     => 0x01#8 ++ 0#24
  | .softReset    => 0x02#8 ++ 0#24
  | .predInit     => 0x10#8 ++ 0#24
  | .predRes v    => 0x11#8 ++ 0#8 ++ v
  | .predRec v    => 0x12#8 ++ 0#8 ++ v
  | .symInit      => 0x20#8 ++ 0#24
  | .symEnc v     => 0x21#8 ++ 0#8 ++ v
  | .symDec y     => 0x22#8 ++ 0#12 ++ y
  | .modelBuild   => 0x30#8 ++ 0#24
  | .ransEncInit  => 0x40#8 ++ 0#24
  | .ransEnc y    => 0x41#8 ++ 0#12 ++ y
  | .ransEncFlush => 0x42#8 ++ 0#24
  | .ransDecInit  => 0x48#8 ++ 0#24
  | .ransDec      => 0x49#8 ++ 0#24

/-- The match and mask columns of a command's row (R126). -/
def rowOf : Instr → Word × Word
  | .nop          => (0x00000000#32, 0xFFFFFFFF#32)
  | .clrFault     => (0x01000000#32, 0xFFFFFFFF#32)
  | .softReset    => (0x02000000#32, 0xFFFFFFFF#32)
  | .predInit     => (0x10000000#32, 0xFFFFFFFF#32)
  | .predRes _    => (0x11000000#32, 0xFFFF0000#32)
  | .predRec _    => (0x12000000#32, 0xFFFF0000#32)
  | .symInit      => (0x20000000#32, 0xFFFFFFFF#32)
  | .symEnc _     => (0x21000000#32, 0xFFFF0000#32)
  | .symDec _     => (0x22000000#32, 0xFFFFF000#32)
  | .modelBuild   => (0x30000000#32, 0xFFFFFFFF#32)
  | .ransEncInit  => (0x40000000#32, 0xFFFFFFFF#32)
  | .ransEnc _    => (0x41000000#32, 0xFFFFF000#32)
  | .ransEncFlush => (0x42000000#32, 0xFFFFFFFF#32)
  | .ransDecInit  => (0x48000000#32, 0xFFFFFFFF#32)
  | .ransDec      => (0x49000000#32, 0xFFFFFFFF#32)

/-- The instruction read from a table-numbered word: a command is one 32-bit bus word whose bit k is bit k of the
register (R89, R120), so the table's numbering is the word's own. -/
def decodeTableWord (nbits w : Nat) : Option Instr :=
  decode (BitVec.ofNat 32 (w % 2 ^ nbits))

end Sys2Proof
end

