-- ==== Sys2Proof/Config.lean ====
section
/-! DEFINITION. What an instance fixes: the constants of 00_scope.md R8, the parameters of R9 with their derived
constants (R10), and the free values: of unwritten table entries (10_state.md R68) and of results no rule states. -/

namespace Sys2Proof

namespace Config

/-- PREC (R8). -/
abbrev prec : Nat := 12

/-- L = 2^PREC, also ALPHABET (R8). -/
abbrev scale : Nat := 4096

/-- MAX_SYM, also ESC_SYM (R8). -/
abbrev escSym : Nat := 4095

/-- The size of the block's window (R80). -/
abbrev windowBytes : Nat := 2 ^ 27

end Config

/-- The instance parameters of R9. Every instance is a value of this type; `Params.legal` (WellFormed.lean) says
which values are in range. -/
structure Params where
  /-- RANS_B, log2 of the lower bound of the rANS state interval: 16 or 24. -/
  ransB : Nat
  /-- MAX_WIDTH, the columns of the line buffer. -/
  maxWidth : Nat
  /-- PAYLOAD_BYTES, the bytes of the payload buffer. -/
  payloadBytes : Nat
  /-- ESC_DEPTH, the entries of the escape buffer. -/
  escDepth : Nat
  /-- BLOCK_BASE, the host physical address of offset 0. -/
  blockBase : Nat
  deriving DecidableEq, Repr

/-- The parameters of the spec's test vectors (R9, 95_test_vectors.md). DESIGN CHOICE (unsafe where used as a fact of a
real instance, log entry 4): `State.reset` stands at these, with BLOCK_BASE, which has no default, at 0. -/
def Params.testVectors : Params :=
  { ransB := 16, maxWidth := 64, payloadBytes := 256, escDepth := 16, blockBase := 0 }

/-- LOW, the lower bound of the rANS state interval (R280). -/
abbrev Params.low (c : Params) : Nat := 2 ^ c.ransB

/-- XMAX(f), the encoder's renormalisation bound for frequency f (R10). -/
abbrev Params.xmax (c : Params) (f : Nat) : Nat := f * 2 ^ (c.ransB + 8 - Config.prec)

/-- The internal tables of R54 to R60, as names of the places a free value stands for. -/
inductive TableName where
  | freq | cum | lut | esc | pay | lb | cp
  deriving DecidableEq, Repr

/-- What an unwritten table entry reads as (R68): a value with no definition, one for each step (`tick`), table and
index. Narrower tables take its low bits. DESIGN CHOICE (log entry 5): within one step one entry gives one value. -/
opaque Config.freeValue (tick : Nat) (table : TableName) (index : Nat) : BitVec 16

/-- How many bytes EncRenorm emits for a drawn frequency of 0, where the loop of R282 has no end: a value with no
definition, one for each step. DESIGN CHOICE (log entry 7). -/
opaque Config.freeShifts (tick : Nat) : Nat

/-- What RANS_X takes where the rules state no 32-bit value for it (R11: no division by 0, no value outside a register's
width): a value with no definition, one for each step. DESIGN CHOICE (log entry 7). -/
opaque Config.freeWord (tick : Nat) : Word

end Sys2Proof
end

