-- ==== Sys2Proof/Machine/State.lean ====
section
/-! DEFINITION. The state of the rANS32 codec block (10_state.md R30 to R64) as plain data, the host events that
wait at its port, the reasons a step can stop, and the reset state (70_reset_and_hazards.md R400). -/

namespace Sys2Proof.Machine

/-- The faults a command can raise (60_exceptions.md R362). Codes 12 to 15 are never raised, so they have no
constructor. -/
inductive FaultCode where
  | illegalCmd | badConfig | predState | badPixel | escOverflow | escUnderflow
  | modelInvalid | noModel | ransState | bufOverflow | ransUnderflow
  deriving DecidableEq, Repr

/-- A held fault record (R361): FCODE, FAULT_INFO and FAULT_CMD. -/
structure FaultRecord where
  code : FaultCode
  info : Word
  cmd  : Word
  deriving DecidableEq, Repr

/-- PSTATE (R62). -/
inductive PState where
  | off | active | done
  deriving DecidableEq, Repr

/-- RMODE (R63); the value 3 never occurs (I9), so it has no constructor. -/
inductive RMode where
  | idle | enc | dec
  deriving DecidableEq, Repr

/-- A table of w-bit entries: the entries written since reset, by index, indexes strictly rising. An index not listed
has not been written (R68). -/
abbrev Table (w : Nat) := List (Nat × BitVec w)

/-- The internal tables of R54 to R60: all the storage the block addresses by index. -/
structure Memory where
  freq : Table 16
  cum  : Table 12
  lut  : Table 12
  esc  : Table 16
  pay  : List Host.Cell
  lb   : Table 16
  cp   : Table 16
  deriving DecidableEq, Repr

/-- The tables after hardware reset: nothing written (R400, R402). -/
def Memory.unwritten : Memory :=
  { freq := [], cum := [], lut := [], esc := [], pay := [], lb := [], cp := [] }

/-- What arrives at the block's port (20_memory.md R84, R97; R400). `addr` is a host physical address (R80), `size` the
access's width in bytes; `data` is the word of a 4-byte write. -/
inductive HostEvent where
  | read (addr size : Nat)
  | write (addr size : Nat) (data : Word)
  | hardReset
  deriving DecidableEq, Repr

/-- What the last performed event answered on the bus. -/
inductive Reply where
  | idle
  | readData (value : Word)
  | writeDone
  deriving DecidableEq, Repr

/-- The reasons the machine stops with no next state: there are none. Every fault of the spec is a record in the state
(R361), and every command completes (R165). -/
inductive Fault where
  deriving DecidableEq, Repr

/-- The reasons a step has no meaning. -/
inductive Refusal where
  /-- The stand-in for a command without a meaning; no arm of `exec` answers it. Safe. -/
  | notModelled (mnemonic : String)
  /-- Raised by an access that is not an aligned 4-byte access: "A model refuses such an access (it has no step for
  it)" (R84). Safe: the hardware answers a bus error and goes on unchanged. -/
  | busError
  /-- Raised by an access whose address lies outside the block's window (R80): it is not this block's access. Safe. -/
  | outsideWindow
  deriving DecidableEq, Repr

/-- The state of the block. STATUS, the CAP registers, ID, CMD and PRED_ADAPT_CNT have no storage of their own: they
are views (Flags.lean, Port.lean). -/
structure State where
  /-- The instance's parameters (R9); no step changes them. -/
  cfg          : Params
  /-- The fault record (R361): STATUS.FAULT, STATUS.FCODE, FAULT_INFO, FAULT_CMD. -/
  fault        : Option FaultRecord
  /-- MODEL_VALID (R64). -/
  modelValid   : Bool
  /-- RESULT (R36). -/
  result       : Word
  /-- PRED_SIZE (R37). -/
  predSize     : Word
  /-- PRED_FMT.CHANNELS (R38). -/
  predChannels : BitVec 2
  /-- PRED_FMT.DOMAIN (R38). -/
  predDomain   : BitVec 1
  /-- PRED_POS.ROW (R39). -/
  row          : Half
  /-- PRED_POS.COL (R39). -/
  col          : Half
  /-- PRED_CH.CH (R40). -/
  ch           : BitVec 2
  /-- PRED_FIXED_CNT (R41). -/
  fixedCnt     : Word
  /-- ESC_LEN (R43). -/
  escLen       : BitVec 19
  /-- ESC_RD (R44). -/
  escRd        : BitVec 19
  /-- RANS_X (R45). -/
  ransX        : Word
  /-- PAY_LEN, POS of the pseudocode (R46). -/
  pos          : BitVec 25
  /-- RANS_CNT (R47). -/
  ransCnt      : Word
  /-- FW (R61). -/
  fw           : Half
  /-- FH (R61). -/
  fh           : Half
  /-- FC (R61). -/
  fc           : BitVec 2
  /-- FD (R61). -/
  fd           : BitVec 1
  /-- PSTATE (R62). -/
  pstate       : PState
  /-- RMODE (R63). -/
  rmode        : RMode
  /-- The tables (R54 to R60). -/
  mem          : Memory
  /-- MODEL's own: the host events waiting at the port, first arrived first (R97, R165). -/
  pending      : List HostEvent
  /-- MODEL's own: the bus answer to the last event. -/
  reply        : Reply
  /-- MODEL's own: the step count that keys the free values (R68). -/
  tick         : Nat
  deriving DecidableEq, Repr

/-- The block after hardware reset, for an instance with parameters c (R400). -/
def State.resetWith (c : Params) : State :=
  { cfg := c, fault := none, modelValid := false, result := 0, predSize := 0, predChannels := 0, predDomain := 0,
    row := 0, col := 0, ch := 0, fixedCnt := 0, escLen := 0, escRd := 0, ransX := 0, pos := 0, ransCnt := 0,
    fw := 0, fh := 0, fc := 0, fd := 0, pstate := .off, rmode := .idle, mem := .unwritten,
    pending := [], reply := .idle, tick := 0 }

/-- The reset state of the instance with the test-vector parameters (R9, R400; log entries 4 and 18). -/
def State.reset : State := State.resetWith Params.testVectors

end Sys2Proof.Machine
end

