-- ==== Sys2Proof/Machine/Flags.lean ====
section
/-! DEFINITION. The status bits: the numeric codes of FCODE, PSTATE and RMODE, and the STATUS word made of them
(10_state.md R35, R62, R63; 60_exceptions.md R362). -/

namespace Sys2Proof.Machine

/-- FCODE of a fault (R362). -/
def faultCode : FaultCode → BitVec 4
  | .illegalCmd    => 1
  | .badConfig     => 2
  | .predState     => 3
  | .badPixel      => 4
  | .escOverflow   => 5
  | .escUnderflow  => 6
  | .modelInvalid  => 7
  | .noModel       => 8
  | .ransState     => 9
  | .bufOverflow   => 10
  | .ransUnderflow => 11

/-- The code of PSTATE in FAULT_INFO (R62). -/
def pstateCode : PState → Word
  | .off    => 0
  | .active => 1
  | .done   => 2

/-- The code of RMODE (R63). -/
def rmodeCode : RMode → BitVec 2
  | .idle => 0
  | .enc  => 1
  | .dec  => 2

/-- STATUS.FAULT (R35). -/
def faultBit (s : State) : BitVec 1 := BitVec.ofBool s.fault.isSome

/-- STATUS.FCODE (R35): 0 when no record is held. -/
def fcodeField (s : State) : BitVec 4 :=
  match s.fault with
  | none => 0
  | some r => faultCode r.code

/-- STATUS.PRED_ACTIVE (R35). -/
def predActiveBit (s : State) : BitVec 1 := BitVec.ofBool (s.pstate == .active)

/-- STATUS.PRED_DONE (R35). -/
def predDoneBit (s : State) : BitVec 1 := BitVec.ofBool (s.pstate == .done)

/-- The STATUS word (R35): [13:12] RMODE, [10] PRED_DONE, [9] PRED_ACTIVE, [8] MODEL_VALID, [7:4] FCODE, [0] FAULT. -/
def statusWord (s : State) : Word :=
  0#18 ++ rmodeCode s.rmode ++ 0#1 ++ predDoneBit s ++ predActiveBit s ++ BitVec.ofBool s.modelValid
    ++ fcodeField s ++ 0#3 ++ faultBit s

/-- FAULT_INFO (R48): 0 when no record is held. -/
def faultInfoWord (s : State) : Word :=
  match s.fault with
  | none => 0
  | some r => r.info

/-- FAULT_CMD (R49): 0 when no record is held. -/
def faultCmdWord (s : State) : Word :=
  match s.fault with
  | none => 0
  | some r => r.cmd

end Sys2Proof.Machine
end

