-- ==== Sys2Proof/Machine/Operands.lean ====
section
/-! DEFINITION. The arithmetic of 00_scope.md R12 and R13 and the operand readings of 30_encoding.md R125. -/

namespace Sys2Proof.Machine

/-- sext_16 of a 16-bit field (R13). -/
abbrev sext16 (v : Half) : Int := v.toInt

/-- wrap16 (R13): 16-bit signed wraparound of any integer. -/
def wrap16 (v : Int) : Int := (BitVec.ofInt 16 v).toInt

/-- u32 (R13): the 32-bit pattern of an integer. -/
def u32 (v : Int) : Word := BitVec.ofInt 32 v

/-- The 16-bit pattern of an integer: what a 16-bit table entry keeps of a sample or residual. -/
def u16 (v : Int) : Half := BitVec.ofInt 16 v

/-- clamp (R13). -/
def clamp (v lo hi : Int) : Int := min hi (max lo v)

/-- The sample VAL16 of PRED_RES stands for in frame domain fd (R125): unsigned in domain 0, signed in domain 1. -/
def sampleOperand (fd : BitVec 1) (v : Half) : Int := if fd = 0 then (v.toNat : Int) else sext16 v

/-- VAL16 of PRED_REC and SYM_ENC (R125): a signed residual. -/
abbrev residualOperand (v : Half) : Int := sext16 v

/-- SYM12 of SYM_DEC and RANS_ENC (R125). -/
abbrev symbolOperand (y : Sym) : Nat := y.toNat

end Sys2Proof.Machine
end

