-- ==== Sys2Proof/WellFormed.lean ====
section
/-! DEFINITION. Well-formedness. A term of `Instr` is well formed by its types (its operand fields have the widths
of R123 and R124: every value of them is an operand), so what is checked here is what can be ill formed: the
instance parameters (00_scope.md R9) and the operands of an assembler line (30_encoding.md R131). -/

namespace Sys2Proof

/-- The parameters lie in the legal ranges of R9. -/
def Params.legal (c : Params) : Bool :=
  (c.ransB == 16 || c.ransB == 24)
    && (1 ≤ c.maxWidth && c.maxWidth ≤ 65535)
    && (4 ≤ c.payloadBytes && c.payloadBytes ≤ 2 ^ 24)
    && (1 ≤ c.escDepth && c.escDepth ≤ 2 ^ 18)
    && c.blockBase % Config.windowBytes == 0

/-- "An assembler must reject a V operand outside -32768 to 65535" (R131). -/
def operandFitsV (v : Int) : Bool := -32768 ≤ v && v ≤ 65535

/-- "and an S operand outside 0 to 4095" (R131). -/
def operandFitsS (v : Int) : Bool := 0 ≤ v && v ≤ 4095

end Sys2Proof
end

