-- ==== Sys2Proof/Machine/Ops.lean ====
section
/-! DEFINITION. The named operations over the tables and registers, taking a fault (60_exceptions.md R361) and the
return from one (R367), and the two resets (70_reset_and_hazards.md R400, R401). -/

namespace Sys2Proof.Machine

/-! ## Tables in canonical form -/

/-- The entry at an index, if it has been written since reset. -/
def tableGet {w : Nat} : Table w → Nat → Option (BitVec w)
  | [], _ => none
  | (k, v) :: t, i => if k = i then some v else tableGet t i

/-- Writing an entry, in its place in the rising order of indexes. -/
def tableSet {w : Nat} : Table w → Nat → BitVec w → Table w
  | [], i, v => [(i, v)]
  | (k, u) :: t, i, v =>
    if i < k then (i, v) :: (k, u) :: t
    else if i = k then (i, v) :: t
    else (k, u) :: tableSet t i v

/-- The canonical form of a table: indexes strictly rising. -/
abbrev tableSorted {w : Nat} (t : Table w) : Prop := t.Pairwise (fun a b => a.1 < b.1)

/-- Every index of the table is below n. -/
abbrev tableBelow {w : Nat} (n : Nat) (t : Table w) : Prop := ∀ e ∈ t, e.1 < n

/-- The index of LB[ch][col] in the line buffer's table (R59). -/
def lineIndex (ch : BitVec 2) (col : Nat) : Nat := ch.toNat * 2 ^ 16 + col

/-- The canonical form of all tables. -/
abbrev Memory.wf (m : Memory) : Prop :=
  tableSorted m.freq ∧ tableSorted m.cum ∧ tableSorted m.lut ∧ tableSorted m.esc ∧ tableSorted m.pay
    ∧ tableSorted m.lb ∧ tableSorted m.cp

/-- The tables hold no entry the instance does not have (R54 to R60, R96). -/
abbrev Memory.inBounds (c : Params) (m : Memory) : Prop :=
  tableBelow 4096 m.freq ∧ tableBelow 4096 m.cum ∧ tableBelow 4096 m.lut ∧ tableBelow c.escDepth m.esc
    ∧ tableBelow c.payloadBytes m.pay ∧ (∀ e ∈ m.lb, e.1 / 2 ^ 16 < 3 ∧ e.1 % 2 ^ 16 < c.maxWidth)
    ∧ tableBelow 3 m.cp

/-! ## Reading entries: written values and free values (R68) -/

/-- An entry's value: what was written last, or a free value when nothing was (R68; log entry 5). -/
def entryOrFree {w : Nat} (tick : Nat) (n : TableName) (t : Table w) (i : Nat) : BitVec w :=
  match tableGet t i with
  | some v => v
  | none => (Config.freeValue tick n i).setWidth w

/-- FREQ[i] (R54). -/
def readFreq (s : State) (i : Nat) : Half := entryOrFree s.tick .freq s.mem.freq i

/-- CUM[i] (R55). -/
def readCum (s : State) (i : Nat) : Sym := entryOrFree s.tick .cum s.mem.cum i

/-- LUT[i] (R56). -/
def readLut (s : State) (i : Nat) : Sym := entryOrFree s.tick .lut s.mem.lut i

/-- ESC[i] (R57). -/
def readEsc (s : State) (i : Nat) : Half := entryOrFree s.tick .esc s.mem.esc i

/-- PAY[i] (R58). -/
def readPay (s : State) (i : Nat) : Byte := entryOrFree s.tick .pay s.mem.pay i

/-- LB[ch][col] (R59). -/
def readLine (s : State) (ch : BitVec 2) (col : Nat) : Half := entryOrFree s.tick .lb s.mem.lb (lineIndex ch col)

/-- CP[ch] (R60). -/
def readAboveLeft (s : State) (ch : BitVec 2) : Half := entryOrFree s.tick .cp s.mem.cp ch.toNat

/-- A value assigned to a 32-bit register. One outside the register's width has no meaning (R11): the register takes a free
value (log entry 7). -/
def wordOrFree (tick : Nat) (v : Int) : Word :=
  if 0 ≤ v ∧ v < 2 ^ 32 then BitVec.ofInt 32 v else Config.freeWord tick

/-! ## Writing entries and bytes -/

/-- A host write of FREQ[i] also clears MODEL_VALID (R91). -/
def writeFreq (i : Nat) (v : Half) (s : State) : State :=
  { s with mem := { s.mem with freq := tableSet s.mem.freq i v }, modelValid := false }

/-- ESC[i] <- v (R94, R224). -/
def writeEsc (i : Nat) (v : Half) (s : State) : State :=
  { s with mem := { s.mem with esc := tableSet s.mem.esc i v } }

/-- PAY[i] <- v (R95). -/
def writePay (i : Nat) (v : Byte) (s : State) : State :=
  { s with mem := { s.mem with pay := tableSet s.mem.pay i v } }

/-- Bytes stored at rising indexes from i on: bytes[0] is pushed first (R282, R285). -/
def storeBytes : List Byte → Nat → Table 8 → Table 8
  | [], _, t => t
  | b :: bs, i, t => storeBytes bs (i + 1) (tableSet t i b)

/-- The payload stack's push at POS (R46, R285, R287): the bytes land at PAY[POS] on, and POS moves past them. -/
def pushBytes (bytes : List Byte) (s : State) : State :=
  { s with
    mem := { s.mem with pay := storeBytes bytes s.pos.toNat s.mem.pay }
    pos := BitVec.ofNat 25 (s.pos.toNat + bytes.length) }

/-! ## Taking a fault and returning from one -/

/-- `raise F(info)` during command word w (R361): the fault record is written and nothing else changes. -/
def raise (w : Word) (code : FaultCode) (info : Word) (s : State) : State :=
  { s with fault := some { code := code, info := info, cmd := w } }

/-- CLR_FAULT's effect (R167, R367): the record is dropped. -/
def clearFault (s : State) : State := { s with fault := none }

/-- The fault gate (R161): a word is discarded when a record is held and it is neither CLR_FAULT nor SOFT_RESET. -/
def gateDiscards (w : Word) (s : State) : Bool :=
  s.fault.isSome && w != 0x01000000#32 && w != 0x02000000#32

/-! ## Reset -/

/-- SOFT_RESET's effect (R168, R401): every register and every hidden item takes its reset value, the tables are kept.
The instance's parameters and the model's port fields are no registers and stay. -/
def softReset (s : State) : State :=
  { State.resetWith s.cfg with mem := s.mem, pending := s.pending, reply := s.reply, tick := s.tick }

/-- Hardware reset (R400): as SOFT_RESET, and the table contents become unspecified, so nothing counts as written.
DESIGN CHOICE (log entry 14): the events that wait at the port behind it stay, and the free values go on. -/
def hardReset (s : State) : State :=
  { State.resetWith s.cfg with pending := s.pending, tick := s.tick }

end Sys2Proof.Machine
end

