-- ==== Sys2Proof/Machine/Control.lean ====
section
/-! DEFINITION. The control commands NOP, CLR_FAULT and SOFT_RESET (40_control.md R166 to R168). -/

namespace Sys2Proof.Machine

/-- NOP (R166): skip. -/
def execNop (s : State) : Host.Outcome State Fault Refusal := .next s

/-- CLR_FAULT (R167). -/
def execClrFault (s : State) : Host.Outcome State Fault Refusal := .next (clearFault s)

/-- SOFT_RESET (R168). -/
def execSoftReset (s : State) : Host.Outcome State Fault Refusal := .next (softReset s)

end Sys2Proof.Machine
end

