-- ==== Sys2Proof/Machine/Model.lean ====
section
/-! DEFINITION. MODEL_BUILD (43_model.md R250 to R253). -/

namespace Sys2Proof.Machine

/-- CUM from the frequencies (R251): entry s is the sum of the frequencies before s. -/
def buildCum : List Nat → (s acc : Nat) → Table 12
  | [], _, _ => []
  | f :: fs, s, acc => (s, BitVec.ofNat 12 acc) :: buildCum fs (s + 1) (acc + f)

/-- LUT from the frequencies (R251): the f slots from acc on belong to symbol s. -/
def buildLut : List Nat → (s acc : Nat) → Table 12
  | [], _, _ => []
  | f :: fs, s, acc =>
    (List.range f).map (fun k => (acc + k, BitVec.ofNat 12 s)) ++ buildLut fs (s + 1) (acc + f)

/-- FREQ[0..4095] as MODEL_BUILD reads it, each entry once (R251; an unwritten entry is a free value, I2). -/
def allFreqs (s : State) : List Nat := (List.range 4096).map (fun i => (readFreq s i).toNat)

/-- The lowest symbol with frequency 0, if any (R251). -/
def lowestZero (s : State) : Option Nat := (List.range 4096).find? (fun i => (readFreq s i).toNat == 0)

/-- MODEL_BUILD's effect on a valid table (R251): every CUM and LUT entry is written, MODEL_VALID is set. -/
def buildTables (s : State) : State :=
  { s with
    mem := { s.mem with cum := buildCum (allFreqs s) 0 0, lut := buildLut (allFreqs s) 0 0 }
    modelValid := true }

/-- MODEL_BUILD (R251): the lowest zero entry, then the total, then the tables. -/
def execModelBuild (s : State) : Host.Outcome State Fault Refusal :=
  .next (
    match lowestZero s with
    | some i => raise (encode .modelBuild) .modelInvalid (BitVec.ofNat 32 i) s
    | none =>
      if (allFreqs s).sum ≠ Config.scale then
        raise (encode .modelBuild) .modelInvalid (0x80000000#32 ||| BitVec.ofNat 32 (allFreqs s).sum) s
      else buildTables s)

end Sys2Proof.Machine
end

