-- ==== Sys2Proof/Machine/Predictor.lean ====
section
/-! DEFINITION. The predictor commands PRED_INIT, PRED_RES and PRED_REC on the fixed MED path (41_predictor.md). -/

namespace Sys2Proof.Machine

/-- The MED function of left A, above B and above-left C (R181), the tests in the order given. -/
def med (a b c : Int) : Int :=
  if c ≥ max a b then min a b
  else if c ≤ min a b then max a b
  else a + b - c

/-- The left neighbour A (R184). A line-buffer entry is read as 16-bit two's complement, which for the values 0 to 255
of the 8-bit domain is the value itself (log entry 17). -/
def leftNeighbour (s : State) : Int :=
  if s.col = 0 then 0 else sext16 (readLine s s.ch (s.col.toNat - 1))

/-- The above neighbour B (R184). -/
def aboveNeighbour (s : State) : Int :=
  if s.row = 0 then 0 else sext16 (readLine s s.ch s.col.toNat)

/-- The above-left neighbour C (R184). -/
def aboveLeftNeighbour (s : State) : Int :=
  if s.row = 0 ∨ s.col = 0 then 0 else sext16 (readAboveLeft s s.ch)

/-- The prediction of the next sample (R184). -/
def prediction (s : State) : Int := med (leftNeighbour s) (aboveNeighbour s) (aboveLeftNeighbour s)

/-- The next position in raster order; after the last sample the predictor is DONE (R187). -/
def advance (s : State) : State :=
  if s.ch + 1 = s.fc then
    if s.col + 1 = s.fw then
      { s with
        ch := 0, col := 0, row := s.row + 1
        pstate := if s.row + 1 = s.fh then .done else s.pstate }
    else { s with ch := 0, col := s.col + 1 }
  else { s with ch := s.ch + 1 }

/-- store(v) without the move (R186): the old above becomes the next above-left, v becomes the line's entry, and the
sample is counted. At ROW = 0 the value copied may be unwritten: a free value (R68), never used as a neighbour. -/
def storeSample (v : Int) (s : State) : State :=
  { s with
    mem := { s.mem with
      cp := tableSet s.mem.cp s.ch.toNat (readLine s s.ch s.col.toNat)
      lb := tableSet s.mem.lb (lineIndex s.ch s.col.toNat) (u16 v) }
    fixedCnt := s.fixedCnt + 1 }

/-- PRED_INIT's check of the configuration (R183): the info of BAD_CONFIG, if any. -/
def configProblem (c : Params) (w h : Half) (channels : BitVec 2) : Option Word :=
  if w = 0 ∨ w.toNat > c.maxWidth then some 1
  else if h = 0 then some 2
  else if channels ≠ 1 ∧ channels ≠ 3 then some 3
  else none

/-- PRED_SIZE.WIDTH (R37). -/
def widthField (w : Word) : Half := w.extractLsb' 0 16

/-- PRED_SIZE.HEIGHT (R37). -/
def heightField (w : Word) : Half := w.extractLsb' 16 16

/-- PRED_INIT's effect (R183): latch the frame, start at its first sample. -/
def startFrame (s : State) : State :=
  { s with
    fw := widthField s.predSize, fh := heightField s.predSize, fc := s.predChannels, fd := s.predDomain
    row := 0, col := 0, ch := 0, pstate := .active, fixedCnt := 0 }

/-- PRED_INIT (R183). -/
def execPredInit (s : State) : Host.Outcome State Fault Refusal :=
  .next (match configProblem s.cfg (widthField s.predSize) (heightField s.predSize) s.predChannels with
    | some info => raise (encode .predInit) .badConfig info s
    | none => startFrame s)

/-- PRED_RES (R188). -/
def execPredRes (val16 : Half) (s : State) : Host.Outcome State Fault Refusal :=
  .next (
    if s.pstate ≠ .active then raise (encode (.predRes val16)) .predState (pstateCode s.pstate) s
    else if s.fd = 0 ∧ val16.toNat > 255 then
      raise (encode (.predRes val16)) .badPixel (val16.setWidth 32) s
    else
      let actual := sampleOperand s.fd val16
      let res := wrap16 (actual - prediction s)
      advance (storeSample actual { s with result := u32 res }))

/-- The value PRED_REC reconstructs from residual r (R189): clamped in the 8-bit domain, wrapped in the 16-bit one. -/
def reconstructed (s : State) (r : Int) : Int :=
  if s.fd = 0 then clamp (prediction s + r) 0 255 else wrap16 (prediction s + r)

/-- PRED_REC (R189). -/
def execPredRec (val16 : Half) (s : State) : Host.Outcome State Fault Refusal :=
  .next (
    if s.pstate ≠ .active then raise (encode (.predRec val16)) .predState (pstateCode s.pstate) s
    else
      let v := reconstructed s (residualOperand val16)
      advance (storeSample v { s with result := u32 v }))

end Sys2Proof.Machine
end

