-- ==== Sys2Proof/Machine/Rans.lean ====
section
/-! DEFINITION. The rANS32 coder commands RANS_ENC_INIT, RANS_ENC, RANS_ENC_FLUSH, RANS_DEC_INIT and RANS_DEC
(44_rans.md), with the interval constants of 90_conflicts.md C1. -/

namespace Sys2Proof.Machine

/-- EncRenorm (R282): while x is at or above the bound, its low byte is emitted and x shifted right by 8. Gives the
state and the bytes in the order emitted. The first argument bounds the number of shifts. -/
def encRenorm (bound : Nat) : (shifts x : Nat) → Nat × List Byte
  | 0, x => (x, [])
  | n + 1, x =>
    if bound ≤ x then
      let r := encRenorm bound n (x / 2 ^ 8)
      (r.1, BitVec.ofNat 8 x :: r.2)
    else (x, [])

/-- The shifts after which a 32-bit state is 0, hence below every bound XMAX(f) with f >= 1 (log entry 13). -/
abbrev maxShifts : Nat := 4

/-- How many shifts EncRenorm may make. For f >= 1 the loop of R282 ends by itself. For f = 0, which RANS_ENC can only draw
(R68), it has no end, and the number is free (log entry 7). -/
def shiftLimit (f tick : Nat) : Nat := if f = 0 then Config.freeShifts tick else maxShifts

/-- EncStep (R283). -/
def encStep (x f cf : Nat) : Nat := (x / f) * Config.scale + x % f + cf

/-- RANS_X after EncStep: for f = 0 the division of R283 has no meaning, and the value is free (log entry 7). -/
def encodedState (tick x f cf : Nat) : Word :=
  if f = 0 then Config.freeWord tick else wordOrFree tick (encStep x f cf)

/-- DecStep's new state (R288), an integer (R11). -/
def decStep (x f cf slot : Nat) : Int := f * (x / 2 ^ Config.prec : Nat) + (slot - cf)

/-- DecRenorm (R289): while x is below LOW, the byte under the stack pointer p is popped and folded in. `none` is the
underflow: a byte is needed and p = 0. -/
def decRenorm (low : Nat) (pay : Nat → Byte) : (p : Nat) → (x : Int) → Option (Int × Nat)
  | 0, x => if x < low then none else some (x, 0)
  | p + 1, x => if x < low then decRenorm low pay p (x * 2 ^ 8 + (pay p).toNat) else some (x, p + 1)

/-- RANS_ENC_INIT (R284). -/
def execRansEncInit (s : State) : Host.Outcome State Fault Refusal :=
  .next { s with ransX := BitVec.ofNat 32 s.cfg.low, pos := 0, rmode := .enc, ransCnt := 0 }

/-- RANS_ENC's effect after its mode checks, for frequency f and cumulative frequency cf (R285): the renormalisation
bytes are pushed, or BUF_OVERFLOW is raised when they do not fit. -/
def encodeSymbol (sym12 : Sym) (f cf : Nat) (s : State) : State :=
  let r := encRenorm (s.cfg.xmax f) (shiftLimit f s.tick) s.ransX.toNat
  if s.pos.toNat + r.2.length > s.cfg.payloadBytes then
    raise (encode (.ransEnc sym12)) .bufOverflow (s.pos.setWidth 32) s
  else
    { pushBytes r.2 s with
      ransX := encodedState s.tick r.1 f cf
      ransCnt := s.ransCnt + 1 }

/-- RANS_ENC (R285). An unwritten FREQ entry is a draw, like every other use of one (R68). -/
def execRansEnc (sym12 : Sym) (s : State) : Host.Outcome State Fault Refusal :=
  .next (
    if s.rmode ≠ .enc then raise (encode (.ransEnc sym12)) .ransState ((rmodeCode s.rmode).setWidth 32) s
    else if s.modelValid = false then raise (encode (.ransEnc sym12)) .noModel 0 s
    else
      encodeSymbol sym12 (readFreq s (symbolOperand sym12)).toNat (readCum s (symbolOperand sym12)).toNat s)

/-- The 4 bytes of the state, low byte first (R287). -/
def flushBytes (x : Word) : List Byte :=
  [x.extractLsb' 0 8, x.extractLsb' 8 8, x.extractLsb' 16 8, x.extractLsb' 24 8]

/-- RANS_ENC_FLUSH (R287). -/
def execRansEncFlush (s : State) : Host.Outcome State Fault Refusal :=
  .next (
    if s.rmode ≠ .enc then raise (encode .ransEncFlush) .ransState ((rmodeCode s.rmode).setWidth 32) s
    else if s.pos.toNat + 4 > s.cfg.payloadBytes then
      raise (encode .ransEncFlush) .bufOverflow (s.pos.setWidth 32) s
    else { pushBytes (flushBytes s.ransX) s with rmode := .idle })

/-- The state read from the last 4 bytes of the buffer (R290). -/
def tailState (s : State) : Word :=
  readPay s (s.pos.toNat - 1) ++ readPay s (s.pos.toNat - 2) ++ readPay s (s.pos.toNat - 3)
    ++ readPay s (s.pos.toNat - 4)

/-- RANS_DEC_INIT (R290). -/
def execRansDecInit (s : State) : Host.Outcome State Fault Refusal :=
  .next (
    if s.pos.toNat < 4 then raise (encode .ransDecInit) .ransUnderflow (s.pos.setWidth 32) s
    else { s with ransX := tailState s, pos := s.pos - 4, rmode := .dec, ransCnt := 0 })

/-- slot = x mod L (R288). -/
def slotOf (s : State) : Nat := s.ransX.toNat % Config.scale

/-- The symbol owning the slot (R288). -/
def slotSymbol (s : State) : Sym := readLut s (slotOf s)

/-- The state DecStep gives (R288), with the frequency and cumulative frequency of the slot's symbol; unwritten entries are
draws (R68). -/
def steppedState (s : State) : Int :=
  decStep s.ransX.toNat (readFreq s (slotSymbol s).toNat).toNat (readCum s (slotSymbol s).toNat).toNat (slotOf s)

/-- RANS_DEC's effect after its mode checks (R291): the new state after renormalisation, or RANS_UNDERFLOW with nothing
consumed. -/
def decodeSymbol (s : State) : State :=
  match decRenorm s.cfg.low (readPay s) s.pos.toNat (steppedState s) with
  | none => raise (encode .ransDec) .ransUnderflow (s.pos.setWidth 32) s
  | some (x, p) =>
    { s with
      ransX := wordOrFree s.tick x, pos := BitVec.ofNat 25 p, result := (slotSymbol s).setWidth 32
      ransCnt := s.ransCnt + 1 }

/-- RANS_DEC (R291). -/
def execRansDec (s : State) : Host.Outcome State Fault Refusal :=
  .next (
    if s.rmode ≠ .dec then raise (encode .ransDec) .ransState ((rmodeCode s.rmode).setWidth 32) s
    else if s.modelValid = false then raise (encode .ransDec) .noModel 0 s
    else decodeSymbol s)

end Sys2Proof.Machine
end

