-- ==== Sys2Proof/Machine/Symbolizer.lean ====
section
/-! DEFINITION. The symbolizer commands SYM_INIT, SYM_ENC and SYM_DEC (42_symbolizer.md). -/

namespace Sys2Proof.Machine

/-- Zigzag of a signed residual (R220). -/
def zigzag (r : Int) : Nat := if 0 ≤ r then (2 * r).toNat else (-2 * r - 1).toNat

/-- Inverse zigzag (R221). -/
def unzigzag (u : Nat) : Int := if u % 2 = 0 then (u / 2 : Nat) else -(((u + 1) / 2 : Nat) : Int)

/-- SYM_INIT (R223). -/
def execSymInit (s : State) : Host.Outcome State Fault Refusal := .next { s with escLen := 0, escRd := 0 }

/-- The escaped half of SYM_ENC (R224): r is appended to ESC, RESULT is ESC_SYM. -/
def appendEscape (r : Half) (s : State) : State :=
  { writeEsc s.escLen.toNat r s with escLen := s.escLen + 1, result := BitVec.ofNat 32 Config.escSym }

/-- SYM_ENC (R224). -/
def execSymEnc (val16 : Half) (s : State) : Host.Outcome State Fault Refusal :=
  .next (
    let z := zigzag (residualOperand val16)
    if z < Config.escSym then { s with result := BitVec.ofNat 32 z }
    else if s.escLen.toNat ≥ s.cfg.escDepth then
      raise (encode (.symEnc val16)) .escOverflow (s.escLen.setWidth 32) s
    else appendEscape val16 s)

/-- SYM_DEC (R226). -/
def execSymDec (sym12 : Sym) (s : State) : Host.Outcome State Fault Refusal :=
  .next (
    if symbolOperand sym12 ≠ Config.escSym then { s with result := u32 (unzigzag (symbolOperand sym12)) }
    else if s.escRd.toNat ≥ s.escLen.toNat then
      raise (encode (.symDec sym12)) .escUnderflow (s.escRd.setWidth 32) s
    else { s with result := u32 (sext16 (readEsc s s.escRd.toNat)), escRd := s.escRd + 1 })

end Sys2Proof.Machine
end

