-- ==== Sys2Proof/Machine/Dispatch.lean ====
section
/-! DEFINITION. exec: one arm a command, each a direct call of its meaning. The fault gate and decoding stand before
it (Issue.lean). -/

namespace Sys2Proof.Machine

/-- The command's own rule (40_control.md R162: "A legal word runs the rule the opcode table names"). -/
def exec (i : Instr) (s : State) : Host.Outcome State Fault Refusal :=
  match i with
  | .nop => Sys2Proof.Machine.execNop s
  | .clrFault => Sys2Proof.Machine.execClrFault s
  | .softReset => Sys2Proof.Machine.execSoftReset s
  | .predInit => Sys2Proof.Machine.execPredInit s
  | .predRes val16 => Sys2Proof.Machine.execPredRes val16 s
  | .predRec val16 => Sys2Proof.Machine.execPredRec val16 s
  | .symInit => Sys2Proof.Machine.execSymInit s
  | .symEnc val16 => Sys2Proof.Machine.execSymEnc val16 s
  | .symDec sym12 => Sys2Proof.Machine.execSymDec sym12 s
  | .modelBuild => Sys2Proof.Machine.execModelBuild s
  | .ransEncInit => Sys2Proof.Machine.execRansEncInit s
  | .ransEnc sym12 => Sys2Proof.Machine.execRansEnc sym12 s
  | .ransEncFlush => Sys2Proof.Machine.execRansEncFlush s
  | .ransDecInit => Sys2Proof.Machine.execRansDecInit s
  | .ransDec => Sys2Proof.Machine.execRansDec s

end Sys2Proof.Machine
end

