-- ==== Sys2Proof/Machine/Issue.lean ====
section
/-! DEFINITION. How a command word executes: the fault gate, decoding, the command's own rule (40_control.md R160 to
R165). -/

namespace Sys2Proof.Machine

/-- Issue of word w (R160): a discarded word changes nothing (R161), an illegal word raises ILLEGAL_CMD with info 0, a
legal word runs its rule (R162). -/
def issue (w : Word) (s : State) : Host.Outcome State Fault Refusal :=
  if gateDiscards w s then .next s
  else
    match decode w with
    | none => .next (raise w .illegalCmd 0 s)
    | some i => exec i s

end Sys2Proof.Machine
end

