-- ==== Sys2Proof/Machine/Port.lean ====
section
/-! DEFINITION. The bus port: the address map (20_memory.md R80 to R82), the registers' reads and writes (10_state.md
R32 to R53), the windows (R91 to R96), and the performance of one host event. -/

namespace Sys2Proof.Machine

/-- The registers of R32. -/
inductive Reg where
  | id | cmd | status | result | predSize | predFmt | predPos | predCh | predFixedCnt | predAdaptCnt
  | escLen | escRd | ransX | payLen | ransCnt | faultInfo | faultCmd | capPayload | capEsc | capMisc
  deriving DecidableEq, Repr

/-- What a word offset of the window addresses (R81). -/
inductive Target where
  | reg (r : Reg)
  | freq (i : Nat)
  | cum (i : Nat)
  | lut (i : Nat)
  | esc (i : Nat)
  | pay (i : Nat)
  | reserved
  deriving DecidableEq, Repr

/-- The register at word k of the register file, offset 4 k (R32); offsets 0x50 to 0xFC are reserved (R53). -/
def regAt : Nat → Target
  | 0 => .reg .id
  | 1 => .reg .cmd
  | 2 => .reg .status
  | 3 => .reg .result
  | 4 => .reg .predSize
  | 5 => .reg .predFmt
  | 6 => .reg .predPos
  | 7 => .reg .predCh
  | 8 => .reg .predFixedCnt
  | 9 => .reg .predAdaptCnt
  | 10 => .reg .escLen
  | 11 => .reg .escRd
  | 12 => .reg .ransX
  | 13 => .reg .payLen
  | 14 => .reg .ransCnt
  | 15 => .reg .faultInfo
  | 16 => .reg .faultCmd
  | 17 => .reg .capPayload
  | 18 => .reg .capEsc
  | 19 => .reg .capMisc
  | _ => .reserved

/-- The offset of a register (R32). -/
def regOffset : Reg → Nat
  | .id => 0x00
  | .cmd => 0x04
  | .status => 0x08
  | .result => 0x0C
  | .predSize => 0x10
  | .predFmt => 0x14
  | .predPos => 0x18
  | .predCh => 0x1C
  | .predFixedCnt => 0x20
  | .predAdaptCnt => 0x24
  | .escLen => 0x28
  | .escRd => 0x2C
  | .ransX => 0x30
  | .payLen => 0x34
  | .ransCnt => 0x38
  | .faultInfo => 0x3C
  | .faultCmd => 0x40
  | .capPayload => 0x44
  | .capEsc => 0x48
  | .capMisc => 0x4C

/-- The address map (R81), with entries beyond the instance's depth reserved (R96). -/
def targetAt (c : Params) (off : Nat) : Target :=
  if off < 0x100 then regAt (off / 4)
  else if 0x4000 ≤ off ∧ off < 0x8000 then .freq ((off - 0x4000) / 4)
  else if 0x8000 ≤ off ∧ off < 0xC000 then .cum ((off - 0x8000) / 4)
  else if 0xC000 ≤ off ∧ off < 0x10000 then .lut ((off - 0xC000) / 4)
  else if 0x100000 ≤ off ∧ off < 0x200000 then
    if (off - 0x100000) / 4 < c.escDepth then .esc ((off - 0x100000) / 4) else .reserved
  else if 0x4000000 ≤ off ∧ off < 0x8000000 then
    if (off - 0x4000000) / 4 < c.payloadBytes then .pay ((off - 0x4000000) / 4) else .reserved
  else .reserved

/-- The offset of a target (R32, R82): the inverse of the address map. -/
def offsetOf : Target → Nat
  | .reg r => regOffset r
  | .freq i => 0x4000 + 4 * i
  | .cum i => 0x8000 + 4 * i
  | .lut i => 0xC000 + 4 * i
  | .esc i => 0x100000 + 4 * i
  | .pay i => 0x4000000 + 4 * i
  | .reserved => 0x50

/-- The offset in the window of a host physical address (R80). -/
def windowOffset (c : Params) (addr : Nat) : Option Nat :=
  if c.blockBase ≤ addr ∧ addr < c.blockBase + Config.windowBytes then some (addr - c.blockBase) else none

/-- An access is admitted when it moves exactly 4 bytes at a multiple of 4 (R84). -/
def admitted (off size : Nat) : Bool := size == 4 && off % 4 == 0

/-- CAP_MISC (R52): [15:0] MAX_WIDTH, [20:16] RANS_B, [27:24] PREC. -/
def capMiscWord (c : Params) : Word :=
  0#4 ++ BitVec.ofNat 4 Config.prec ++ 0#3 ++ BitVec.ofNat 5 c.ransB ++ BitVec.ofNat 16 c.maxWidth

/-- A register's value on a read (R33 to R52). -/
def readReg (r : Reg) (s : State) : Word :=
  match r with
  | .id => 0x534E4152#32
  | .cmd => 0
  | .status => statusWord s
  | .result => s.result
  | .predSize => s.predSize
  | .predFmt => 0#23 ++ s.predDomain ++ 0#6 ++ s.predChannels
  | .predPos => s.row ++ s.col
  | .predCh => s.ch.setWidth 32
  | .predFixedCnt => s.fixedCnt
  | .predAdaptCnt => 0
  | .escLen => s.escLen.setWidth 32
  | .escRd => s.escRd.setWidth 32
  | .ransX => s.ransX
  | .payLen => s.pos.setWidth 32
  | .ransCnt => s.ransCnt
  | .faultInfo => faultInfoWord s
  | .faultCmd => faultCmdWord s
  | .capPayload => BitVec.ofNat 32 s.cfg.payloadBytes
  | .capEsc => BitVec.ofNat 32 s.cfg.escDepth
  | .capMisc => capMiscWord s.cfg

/-- The value a read of a target returns (R85, R91 to R96). -/
def readTarget (t : Target) (s : State) : Word :=
  match t with
  | .reg r => readReg r s
  | .freq i => (readFreq s i).setWidth 32
  | .cum i => (readCum s i).setWidth 32
  | .lut i => (readLut s i).setWidth 32
  | .esc i => (readEsc s i).signExtend 32
  | .pay i => (readPay s i).setWidth 32
  | .reserved => 0

/-- A write of v to ESC_LEN: ignored above ESC_DEPTH (R43). -/
def writeEscLen (v : Word) (s : State) : State :=
  if v.toNat ≤ s.cfg.escDepth then { s with escLen := v.setWidth 19 } else s

/-- A write of v to ESC_RD: ignored above ESC_DEPTH (R44). -/
def writeEscRd (v : Word) (s : State) : State :=
  if v.toNat ≤ s.cfg.escDepth then { s with escRd := v.setWidth 19 } else s

/-- A write of v to PAY_LEN: ignored outside IDLE and above PAYLOAD_BYTES (R46). -/
def writePayLen (v : Word) (s : State) : State :=
  if s.rmode = .idle ∧ v.toNat ≤ s.cfg.payloadBytes then { s with pos := v.setWidth 25 } else s

/-- A write of v to PRED_FMT: CHANNELS and DOMAIN only (R38). -/
def writePredFmt (v : Word) (s : State) : State :=
  { s with predChannels := v.extractLsb' 0 2, predDomain := v.extractLsb' 8 1 }

/-- A write of v to a register (R34, R37, R38, R43, R44, R46); the others ignore it (R87). -/
def writeReg (r : Reg) (v : Word) (s : State) : Host.Outcome State Fault Refusal :=
  match r with
  | .cmd => issue v s
  | .predSize => .next { s with predSize := v }
  | .predFmt => .next (writePredFmt v s)
  | .escLen => .next (writeEscLen v s)
  | .escRd => .next (writeEscRd v s)
  | .payLen => .next (writePayLen v s)
  | .id | .status | .result | .predPos | .predCh | .predFixedCnt | .predAdaptCnt | .ransX | .ransCnt
  | .faultInfo | .faultCmd | .capPayload | .capEsc | .capMisc => .next s

/-- A write of v to a target (R85, R87, R91 to R96). -/
def writeTarget (t : Target) (v : Word) (s : State) : Host.Outcome State Fault Refusal :=
  match t with
  | .reg r => writeReg r v s
  | .freq i => .next (writeFreq i (v.extractLsb' 0 16) s)
  | .esc i => .next (writeEsc i (v.extractLsb' 0 16) s)
  | .pay i => .next (writePay i (v.extractLsb' 0 8) s)
  | .cum _ | .lut _ | .reserved => .next s

/-- Performing a read (R84, R86): the value goes to the bus, nothing of the block changes. -/
def performRead (addr size : Nat) (s : State) : Host.Outcome State Fault Refusal :=
  match windowOffset s.cfg addr with
  | none => .refused .outsideWindow
  | some off =>
    if admitted off size then .next { s with reply := .readData (readTarget (targetAt s.cfg off) s) }
    else .refused .busError

/-- Performing a write (R84, R87); the write completes normally also when its command faults (R361). -/
def performWrite (addr size : Nat) (v : Word) (s : State) : Host.Outcome State Fault Refusal :=
  match windowOffset s.cfg addr with
  | none => .refused .outsideWindow
  | some off =>
    if admitted off size then writeTarget (targetAt s.cfg off) v { s with reply := .writeDone }
    else .refused .busError

/-- Performing one host event. -/
def perform (e : HostEvent) (s : State) : Host.Outcome State Fault Refusal :=
  match e with
  | .read addr size => performRead addr size s
  | .write addr size v => performWrite addr size v s
  | .hardReset => .next (hardReset s)

/-- The port takes the first waiting event off its queue; rest is what still waits. The step count that keys the free
values goes on (R68). -/
def accept (rest : List HostEvent) (s : State) : State :=
  { s with pending := rest, tick := s.tick + 1 }

end Sys2Proof.Machine
end

