-- ==== Sys2Proof/Machine/Step.lean ====
section
/-! DEFINITION. One step of the block: the first waiting host event is performed (20_memory.md R97), or, with none, the
block waits (70_reset_and_hazards.md R403). -/

namespace Sys2Proof.Machine

/-- One step. Every command is one step (R165, R420). -/
def step (s : State) : Host.Outcome State Fault Refusal :=
  match s.pending with
  | [] => .next s
  | e :: rest => perform e (accept rest s)

/-- A program does not lie in the block's memory: a command is the data word of a CMD write (R34, R100). The word is put
where the next step takes its command from: a 4-byte write of it to CMD, ahead of what waits at the port. -/
def State.withFetchWord (s : State) (nbits w : Nat) : State :=
  { s with
    pending := .write (s.cfg.blockBase + regOffset .cmd) 4 (BitVec.ofNat 32 (w % 2 ^ nbits)) :: s.pending }

end Sys2Proof.Machine
end

