-- ==== Sys2Proof/Machine/Container.lean ====
section
/-! DEFINITION. The entropy container record and its file (48_host_interface.md R340 to R344): host software beside the
block, given because the record maps onto the block's registers and windows. -/

namespace Sys2Proof.Machine

/-- The record of R331: the fields of R340 that are not constants or derived. -/
structure Record where
  mode        : Nat
  width       : Nat
  height      : Nat
  channels    : Nat
  symbolCount : Nat
  freqs       : List Half
  escapes     : List Half
  payload     : List Byte
  deriving DecidableEq, Repr

/-- The n bytes of v, little-endian (R340). -/
def bytesLE : (n v : Nat) → List Byte
  | 0, _ => []
  | n + 1, v => BitVec.ofNat 8 v :: bytesLE n (v / 2 ^ 8)

/-- save(record) (R340, R341). -/
def saveRecord (r : Record) : List Byte :=
  bytesLE 4 0x534E4152 ++ bytesLE 4 r.mode ++ bytesLE 4 r.width ++ bytesLE 4 r.height ++ bytesLE 4 r.channels
    ++ bytesLE 8 r.symbolCount ++ bytesLE 4 Config.scale ++ bytesLE 4 4096
    ++ r.freqs.flatMap (fun f => bytesLE 2 f.toNat)
    ++ bytesLE 8 r.escapes.length ++ bytesLE 8 (2 * r.escapes.length) ++ bytesLE 8 r.payload.length
    ++ r.escapes.flatMap (fun e => bytesLE 2 e.toNat) ++ r.payload

/-- A little-endian number of n bytes off the front of a file; none when the file is too short (R342). -/
def takeLE : (n : Nat) → List Byte → Option (Nat × List Byte)
  | 0, bs => some (0, bs)
  | _ + 1, [] => none
  | n + 1, b :: bs =>
    match takeLE n bs with
    | none => none
    | some (v, rest) => some (b.toNat + 2 ^ 8 * v, rest)

/-- count 16-bit values off the front of a file. -/
def takeHalves : (count : Nat) → List Byte → Option (List Half × List Byte)
  | 0, bs => some ([], bs)
  | n + 1, bs =>
    match takeLE 2 bs with
    | none => none
    | some (v, rest) =>
      match takeHalves n rest with
      | none => none
      | some (vs, rest') => some (BitVec.ofNat 16 v :: vs, rest')

/-- count bytes off the front of a file. -/
def takeBytes : (count : Nat) → List Byte → Option (List Byte)
  | 0, _ => some []
  | _ + 1, [] => none
  | n + 1, b :: bs =>
    match takeBytes n bs with
    | none => none
    | some rest => some (b :: rest)

/-- The loader's rejections of R342 that concern the record itself. -/
def Record.acceptable (c : Params) (r : Record) : Bool :=
  r.escapes.length ≤ c.escDepth && r.payload.length ≤ c.payloadBytes && r.mode ≤ 1
    && (1 ≤ r.width && r.width ≤ c.maxWidth) && (1 ≤ r.height && r.height ≤ 65535)
    && (r.channels == 1 || r.channels == 3) && r.symbolCount == r.width * r.height * r.channels
    && r.freqs.length == 4096

/-- load(file) (R342): none is "fatal: no partial record". The checks of magic, L, alphabet_size, escape_byte_len and
the two counts are made before an array they size is read. -/
def loadRecord (c : Params) (file : List Byte) : Option Record := do
  let (magic, b) ← takeLE 4 file
  let (mode, b) ← takeLE 4 b
  let (width, b) ← takeLE 4 b
  let (height, b) ← takeLE 4 b
  let (channels, b) ← takeLE 4 b
  let (symbolCount, b) ← takeLE 8 b
  let (scale, b) ← takeLE 4 b
  let (alphabet, b) ← takeLE 4 b
  if magic ≠ 0x534E4152 ∨ scale ≠ Config.scale ∨ alphabet ≠ 4096 then none
  else
    let (freqs, b) ← takeHalves 4096 b
    let (escapeCount, b) ← takeLE 8 b
    let (escapeBytes, b) ← takeLE 8 b
    let (entropyBytes, b) ← takeLE 8 b
    if escapeBytes ≠ 2 * escapeCount ∨ escapeCount > c.escDepth ∨ entropyBytes > c.payloadBytes then none
    else
      let (escapes, b) ← takeHalves escapeCount b
      let payload ← takeBytes entropyBytes b
      let r : Record := { mode, width, height, channels, symbolCount, freqs, escapes, payload }
      if r.acceptable c then some r else none

end Sys2Proof.Machine
end

