-- ==== Sys2Proof/Machine/HostProgram.lean ====
section
/-! DEFINITION. The host's program notation (30_encoding.md R131, R132): lines, pseudo-instructions, their expansion to
bus operations, and a run of those. Host software beside the block; it reaches the block through the port only. -/

namespace Sys2Proof.Machine

/-- The format N mnemonics (R122, R126). -/
inductive MnemonicN where
  | nop | clrFault | softReset | predInit | symInit | modelBuild | ransEncInit | ransEncFlush | ransDecInit | ransDec
  deriving DecidableEq, Repr

/-- The format V mnemonics (R123, R126). -/
inductive MnemonicV where
  | predRes | predRec | symEnc
  deriving DecidableEq, Repr

/-- The format S mnemonics (R124, R126). -/
inductive MnemonicS where
  | symDec | ransEnc
  deriving DecidableEq, Repr

/-- The command of a format N mnemonic. -/
def instrN : MnemonicN → Instr
  | .nop => .nop
  | .clrFault => .clrFault
  | .softReset => .softReset
  | .predInit => .predInit
  | .symInit => .symInit
  | .modelBuild => .modelBuild
  | .ransEncInit => .ransEncInit
  | .ransEncFlush => .ransEncFlush
  | .ransDecInit => .ransDecInit
  | .ransDec => .ransDec

/-- The command of a format V mnemonic with operand v mod 2^16; an operand outside the range is rejected (R131). -/
def instrV (m : MnemonicV) (v : Int) : Option Instr :=
  if operandFitsV v then
    some (match m with
      | .predRes => .predRes (u16 v)
      | .predRec => .predRec (u16 v)
      | .symEnc => .symEnc (u16 v))
  else none

/-- The command of a format S mnemonic; an operand outside 0 to 4095 is rejected (R131). -/
def instrS (m : MnemonicS) (v : Int) : Option Instr :=
  if operandFitsS v then
    some (match m with
      | .symDec => .symDec (BitVec.ofInt 12 v)
      | .ransEnc => .ransEnc (BitVec.ofInt 12 v))
  else none

/-- The lines of a host program (R131) and the pseudo-instructions (R132). DESIGN CHOICE (log entry 23): R131 and R132
state an operand range for format V and S commands only; every other value is a 32-bit word, as the bus moves (R83), and
an escape of LOAD_ESC any integer, since u32 takes one (R13). -/
inductive HostLine where
  | wr (t : Target) (v : Word)
  | rd (t : Target)
  | expect (t : Target) (v : Word)
  | expectm (t : Target) (mask v : Word)
  | commandN (m : MnemonicN)
  | commandV (m : MnemonicV) (v : Int)
  | commandS (m : MnemonicS) (v : Int)
  | setFrame (w h c d : Word)
  | loadUniformModel
  | loadPayload (bytes : List Word)
  | loadEsc (values : List Int)
  | checkOk
  deriving DecidableEq, Repr

/-- A host program: lines and repeat blocks in sequence (R131). -/
inductive HostProgram where
  | done
  | line (l : HostLine) (rest : HostProgram)
  | repeatBlock (n : Nat) (body rest : HostProgram)
  deriving Repr

/-- What the block sees of a line: reads and writes at block offsets (R14). `check` is a read whose value the host
asserts under a mask. -/
inductive BusOp where
  | write (off : Nat) (v : Word)
  | read (off : Nat)
  | check (off : Nat) (mask v : Word)
  deriving DecidableEq, Repr

/-- `wr CMD, word` of a command (R131). -/
def commandOp (i : Instr) : BusOp := .write (regOffset .cmd) (encode i)

/-- Writes of a list of words to consecutive entries of a window from index i on. -/
def windowWrites (entry : Nat → Target) : List Word → Nat → List BusOp
  | [], _ => []
  | v :: vs, i => .write (offsetOf (entry i)) v :: windowWrites entry vs (i + 1)

/-- The expansion of a line (R131, R132); none where the assembler rejects an operand. SET_FRAME's two words are computed
in 32 bits, so bits of h << 16 and d << 8 above them are lost (log entry 23). -/
def expandLine : HostLine → Option (List BusOp)
  | .wr t v => some [.write (offsetOf t) v]
  | .rd t => some [.read (offsetOf t)]
  | .expect t v => some [.check (offsetOf t) 0xFFFFFFFF#32 v]
  | .expectm t mask v => some [.check (offsetOf t) mask v]
  | .commandN m => some [commandOp (instrN m)]
  | .commandV m v => (instrV m v).map (fun i => [commandOp i])
  | .commandS m v => (instrS m v).map (fun i => [commandOp i])
  | .setFrame w h c d =>
    some [.write (regOffset .predSize) (h <<< 16 ||| w), .write (regOffset .predFmt) (d <<< 8 ||| c),
      commandOp .predInit]
  | .loadUniformModel => some (windowWrites .freq (List.replicate 4096 1#32) 0 ++ [commandOp .modelBuild])
  | .loadPayload bytes =>
    some (windowWrites .pay bytes 0
      ++ [.write (regOffset .payLen) (BitVec.ofNat 32 bytes.length)])
  | .loadEsc values =>
    some (windowWrites .esc (values.map u32) 0
      ++ [.write (regOffset .escLen) (BitVec.ofNat 32 values.length), .write (regOffset .escRd) 0])
  | .checkOk => some [.check (regOffset .status) 1#32 0#32]

/-- The expansion of a program; `repeat` gives the expanded sequence (R131). -/
def expandProgram : HostProgram → Option (List BusOp)
  | .done => some []
  | .line l rest =>
    match expandLine l, expandProgram rest with
    | some a, some b => some (a ++ b)
    | _, _ => none
  | .repeatBlock n body rest =>
    match expandProgram body, expandProgram rest with
    | some a, some b => some ((List.replicate n a).flatten ++ b)
    | _, _ => none

/-- A host access that arrives at the port now: the next step performs it. -/
def hostAccess (e : HostEvent) (s : State) : Host.Outcome State Fault Refusal := step { s with pending := e :: s.pending }

/-- MemWrite(off, 4, v) (R14). -/
def memWrite (off : Nat) (v : Word) (s : State) : Host.Outcome State Fault Refusal :=
  hostAccess (.write (s.cfg.blockBase + off) 4 v) s

/-- MemRead(off, 4) (R14). -/
def memRead (off : Nat) (s : State) : Host.Outcome State Fault Refusal :=
  hostAccess (.read (s.cfg.blockBase + off) 4) s

/-- The word the last read answered with. -/
def replyWord (s : State) : Word :=
  match s.reply with
  | .readData v => v
  | .idle | .writeDone => 0

/-- How a run of bus operations ends. -/
inductive RunResult where
  | finished (s : State)
  | assertionFailed (remaining : Nat)
  | stopped
  deriving Repr

/-- A run of bus operations in order (R97). -/
def runOps : List BusOp → State → RunResult
  | [], s => .finished s
  | .write off v :: ops, s =>
    match memWrite off v s with
    | .next t => runOps ops t
    | .fault _ | .refused _ => .stopped
  | .read off :: ops, s =>
    match memRead off s with
    | .next t => runOps ops t
    | .fault _ | .refused _ => .stopped
  | .check off mask v :: ops, s =>
    match memRead off s with
    | .next t => if replyWord t &&& mask = v then runOps ops t else .assertionFailed ops.length
    | .fault _ | .refused _ => .stopped

end Sys2Proof.Machine
end

