-- ==== Sys2Proof/Machine/ReferenceBuilder.lean ====
section
/-! DEFINITION. The host reference builder of the static model (43_model.md R262 to R266): host software, outside the
block (00_scope.md R6). -/

namespace Sys2Proof.Machine

/-- hist[s], the number of occurrences of symbol s (R262); the empty sequence is seeded with hist[0] = L (R263). -/
def histogram (syms : List Sym) (s : Nat) : Nat :=
  if syms.isEmpty then (if s = 0 then Config.scale else 0) else syms.countP (fun y => y.toNat == s)

/-- n of R264: the length of the sequence, L for the empty one (R263). -/
def sampleCount (syms : List Sym) : Nat := if syms.isEmpty then Config.scale else syms.length

/-- The target frequency f[s], halves rounded up, floor 1 (R264). -/
def targetFreq (syms : List Sym) (s : Nat) : Nat :=
  max 1 ((2 * histogram syms s * Config.scale + sampleCount syms) / (2 * sampleCount syms))

/-- One step of the fix-up loop (R265): the lowest index among the largest (smallest) entries changes by 1. -/
def fixUpStep (f : List Nat) : List Nat :=
  if f.sum > Config.scale then f.modify (f.findIdx (fun x => x == f.foldl max 0)) (fun x => x - 1)
  else f.modify (f.findIdx (fun x => x == f.foldl min (f.headD 0))) (fun x => x + 1)

/-- The fix-up loop (R265): it runs while the sum is not L; the first argument bounds the steps. -/
def fixUp : Nat → List Nat → List Nat
  | 0, f => f
  | n + 1, f => if f.sum = Config.scale then f else fixUp n (fixUpStep f)

/-- The distance of the sum from L: each step of the loop lowers it by 1. -/
def sumDistance (f : List Nat) : Nat := (f.sum - Config.scale) + (Config.scale - f.sum)

/-- build(symbols): the frequency table (R262 to R265). -/
def buildFreqs (syms : List Sym) : List Nat :=
  let f := (List.range 4096).map (targetFreq syms)
  fixUp (sumDistance f) f

end Sys2Proof.Machine
end

