-- ==== Sys2Proof/Machine/HostFrame.lean ====
section
/-! DEFINITION. The host's procedures for a whole frame (48_host_interface.md R330 to R336). Host software beside the
block: every action on the block is an access through its port, and every command is followed by CHECK_OK, so a fault
ends the procedure with no partial result (R331, R336). -/

namespace Sys2Proof.Machine

/-- A write to a target; none where the access is not performed. -/
def hostWrite (t : Target) (v : Word) (s : State) : Option State :=
  match memWrite (offsetOf t) v s with
  | .next s' => some s'
  | .fault _ | .refused _ => none

/-- A read of a target, with the word it answered. -/
def hostRead (t : Target) (s : State) : Option (Word × State) :=
  match memRead (offsetOf t) s with
  | .next s' => some (replyWord s', s')
  | .fault _ | .refused _ => none

/-- A command followed by CHECK_OK (R331): none where STATUS.FAULT is asserted afterwards. -/
def hostCommand (i : Instr) (s : State) : Option State := do
  let s ← hostWrite (.reg .cmd) (encode i) s
  let (status, s) ← hostRead (.reg .status) s
  if status &&& 1#32 = 0#32 then some s else none

/-- A command whose RESULT the host reads before the next one (R415). -/
def hostResult (i : Instr) (s : State) : Option (Word × State) := do
  let s ← hostCommand i s
  hostRead (.reg .result) s

/-- A command for each value of a list, in order, with the RESULT of each. -/
def hostEach {α : Type} (command : α → Instr) : List α → State → Option (List Word × State)
  | [], s => some ([], s)
  | a :: rest, s => do
    let (v, s) ← hostResult (command a) s
    let (vs, s) ← hostEach command rest s
    some (v :: vs, s)

/-- A command for each value of a list, in order. -/
def hostAll {α : Type} (command : α → Instr) : List α → State → Option State
  | [], s => some s
  | a :: rest, s => do
    let s ← hostCommand (command a) s
    hostAll command rest s

/-- Writes of consecutive window entries from index i on. -/
def hostWriteAll (entry : Nat → Target) : List Word → Nat → State → Option State
  | [], _, s => some s
  | v :: vs, i, s => do
    let s ← hostWrite (entry i) v s
    hostWriteAll entry vs (i + 1) s

/-- Reads of n consecutive window entries from index i on. -/
def hostReadAll (entry : Nat → Target) : (n i : Nat) → State → Option (List Word × State)
  | 0, _, s => some ([], s)
  | n + 1, i, s => do
    let (v, s) ← hostRead (entry i) s
    let (vs, s) ← hostReadAll entry n (i + 1) s
    some (v :: vs, s)

/-- SET_FRAME (R132). -/
def hostSetFrame (w h : Half) (c : BitVec 2) (d : BitVec 1) (s : State) : Option State := do
  let s ← hostWrite (.reg .predSize) (h ++ w) s
  let s ← hostWrite (.reg .predFmt) (0#23 ++ d ++ 0#6 ++ c) s
  hostCommand .predInit s

/-- The frequency table into FREQ, then MODEL_BUILD (R331, R333). -/
def hostLoadModel (freqs : List Half) (s : State) : Option State := do
  let s ← hostWriteAll .freq (freqs.map (fun f => f.setWidth 32)) 0 s
  hostCommand .modelBuild s

/-- A frame: its shape, its domain and its samples in raster order (R15). -/
structure Frame where
  width    : Half
  height   : Half
  channels : BitVec 2
  domain   : BitVec 1
  samples  : List Half
  deriving DecidableEq, Repr

/-- The encode procedure (R331): residuals, symbols and escapes, model and entropy coding, last symbol first (R332). -/
def encodeFrame (g : Frame) (s : State) : Option (Record × State) := do
  let s ← hostSetFrame g.width g.height g.channels g.domain s
  let (res, s) ← hostEach .predRes g.samples s
  let s ← hostCommand .symInit s
  let (syms, s) ← hostEach (fun r : Word => .symEnc (r.setWidth 16)) res s
  let (e, s) ← hostRead (.reg .escLen) s
  let (esc, s) ← hostReadAll .esc e.toNat 0 s
  let sym12 : List Sym := syms.map (fun y => y.setWidth 12)
  let freqs : List Half := (buildFreqs sym12).map (BitVec.ofNat 16)
  let s ← hostLoadModel freqs s
  let s ← hostCommand .ransEncInit s
  let s ← hostAll .ransEnc sym12.reverse s
  let s ← hostCommand .ransEncFlush s
  let (p, s) ← hostRead (.reg .payLen) s
  let (bytes, s) ← hostReadAll .pay p.toNat 0 s
  some ({ mode := g.domain.toNat, width := g.width.toNat, height := g.height.toNat, channels := g.channels.toNat,
          symbolCount := g.samples.length, freqs := freqs, escapes := esc.map (fun v => v.setWidth 16),
          payload := bytes.map (fun v => v.setWidth 8) }, s)

/-- n times RANS_DEC, with the symbols (R333). -/
def hostDecodeSymbols (n : Nat) (s : State) : Option (List Sym × State) := do
  let (vs, s) ← hostEach (fun _ : Nat => .ransDec) (List.range n) s
  some (vs.map (fun v => v.setWidth 12), s)

/-- The entropy half of R333: payload, PAY_LEN, RANS_DEC_INIT, symbols; no rANS command for a record of no symbols. -/
def hostDecodePayload (r : Record) (s : State) : Option (List Sym × State) :=
  if r.symbolCount = 0 then some ([], s)
  else do
    let s ← hostWriteAll .pay (r.payload.map (fun b => b.setWidth 32)) 0 s
    let s ← hostWrite (.reg .payLen) (BitVec.ofNat 32 r.payload.length) s
    let s ← hostCommand .ransDecInit s
    hostDecodeSymbols r.symbolCount s

/-- The decode procedure (R333, R334), with the SOFT_RESET the host issues before it. -/
def decodeFrame (r : Record) (s : State) : Option (Frame × State) := do
  let s ← hostCommand .softReset s
  let s ← hostLoadModel r.freqs s
  let (syms, s) ← hostDecodePayload r s
  let s ← hostWriteAll .esc (r.escapes.map (fun e => u32 (sext16 e))) 0 s
  let s ← hostWrite (.reg .escLen) (BitVec.ofNat 32 r.escapes.length) s
  let s ← hostWrite (.reg .escRd) 0 s
  let (res, s) ← hostEach .symDec syms s
  let w := BitVec.ofNat 16 r.width
  let h := BitVec.ofNat 16 r.height
  let c := BitVec.ofNat 2 r.channels
  let d := BitVec.ofNat 1 r.mode
  let s ← hostSetFrame w h c d s
  let (pix, s) ← hostEach (fun v : Word => .predRec (v.setWidth 16)) res s
  some ({ width := w, height := h, channels := c, domain := d, samples := pix.map (fun v => v.setWidth 16) }, s)

end Sys2Proof.Machine
end

