-- ==== Sys2Proof/Safety.lean ====
section
/-! DEFINITION. What claims about the machine are stated in: the invariant of the block's reachable states, the
contents of the line buffer during a frame, the parts of the state a frame statement keeps, and safe runs. -/

namespace Sys2Proof.Machine

/-! ## The model tables -/

/-- The tables are those of the only valid model (43_model.md R253): CUM[i] = LUT[i] = i, and every FREQ entry that was
written is 1. -/
def UniformModel (s : State) : Prop :=
  ∀ i < 4096, (tableGet s.mem.freq i = none ∨ tableGet s.mem.freq i = some 1)
    ∧ tableGet s.mem.cum i = some (BitVec.ofNat 12 i) ∧ tableGet s.mem.lut i = some (BitVec.ofNat 12 i)

/-- The tables satisfy the laws the coder's arithmetic rests on (R252, R286, R288): for every symbol f >= 1 and
cf + f <= L, and every slot lies in the range of the symbol LUT gives it. -/
def ConsistentModel (s : State) : Prop :=
  (∀ y < 4096, 1 ≤ (readFreq s y).toNat ∧ (readCum s y).toNat + (readFreq s y).toNat ≤ 4096)
    ∧ ∀ slot < 4096, (readCum s (readLut s slot).toNat).toNat ≤ slot
        ∧ slot < (readCum s (readLut s slot).toNat).toNat + (readFreq s (readLut s slot).toNat).toNat

/-! ## The predictor's frame -/

/-- The flat index of the next sample (00_scope.md R15): how many samples of the frame are done. -/
def sampleIndex (s : State) : Nat := (s.row.toNat * s.fw.toNat + s.col.toNat) * s.fc.toNat + s.ch.toNat

/-- The latched frame is one PRED_INIT accepts (R183). -/
def FrameLegal (s : State) : Prop :=
  1 ≤ s.fw.toNat ∧ s.fw.toNat ≤ s.cfg.maxWidth ∧ 1 ≤ s.fh.toNat ∧ (s.fc = 1 ∨ s.fc = 3)

/-- The next sample lies in the frame. -/
def PositionInFrame (s : State) : Prop :=
  s.row.toNat < s.fh.toNat ∧ s.col.toNat < s.fw.toNat ∧ s.ch.toNat < s.fc.toNat

/-- Sample (ROW, j, c) of the current row comes before the next sample. -/
def Passed (s : State) (c : BitVec 2) (j : Nat) : Prop :=
  j < s.col.toNat ∨ (j = s.col.toNat ∧ c.toNat < s.ch.toNat)

/-- A line-buffer or above-left value fits the frame's domain (R59): 0 to 255 in domain 0. -/
def InDomain (s : State) (v : Half) : Prop := s.fd = 0 → v.toNat ≤ 255

/-- Every entry the neighbour fetch of this frame can use has been written, with a value of the frame's domain (R59,
R60, R184). -/
def ContextWritten (s : State) : Prop :=
  (∀ c : BitVec 2, ∀ j : Nat, c.toNat < s.fc.toNat → j < s.fw.toNat → (0 < s.row.toNat ∨ Passed s c j) →
      ∃ v, tableGet s.mem.lb (lineIndex c j) = some v ∧ InDomain s v)
    ∧ ∀ c : BitVec 2, c.toNat < s.fc.toNat → 0 < s.row.toNat → (0 < s.col.toNat ∨ c.toNat < s.ch.toNat) →
      ∃ v, tableGet s.mem.cp c.toNat = some v ∧ InDomain s v

/-- The predictor's state is one a run can reach (R41, R61, R62, R187). -/
def PredictorOk (s : State) : Prop :=
  s.fixedCnt = BitVec.ofNat 32 (sampleIndex s) ∧
  match s.pstate with
  | .off => s.fw = 0 ∧ s.fh = 0 ∧ s.fc = 0 ∧ s.fd = 0 ∧ s.row = 0 ∧ s.col = 0 ∧ s.ch = 0
  | .active => FrameLegal s ∧ PositionInFrame s ∧ ContextWritten s
  | .done => FrameLegal s ∧ s.row = s.fh ∧ s.col = 0 ∧ s.ch = 0

/-- The line buffer and the above-left registers hold the causal context of a frame whose stored samples, in raster
order, are vs (R59, R60): LB[c][j] is sample (ROW, j, c) where that one is done and sample (ROW-1, j, c) elsewhere;
CP[c] is the sample above-left of the next sample of channel c. -/
def HoldsContext (s : State) (vs : List Half) : Prop :=
  vs.length = sampleIndex s
    ∧ (∀ c : BitVec 2, ∀ j : Nat, c.toNat < s.fc.toNat → j < s.fw.toNat → Passed s c j →
        tableGet s.mem.lb (lineIndex c j) = vs[(s.row.toNat * s.fw.toNat + j) * s.fc.toNat + c.toNat]?)
    ∧ (∀ c : BitVec 2, ∀ j : Nat, c.toNat < s.fc.toNat → j < s.fw.toNat → ¬ Passed s c j → 0 < s.row.toNat →
        tableGet s.mem.lb (lineIndex c j) = vs[((s.row.toNat - 1) * s.fw.toNat + j) * s.fc.toNat + c.toNat]?)
    ∧ (∀ c : BitVec 2, c.toNat < s.fc.toNat → s.ch.toNat ≤ c.toNat → 0 < s.row.toNat → 0 < s.col.toNat →
        tableGet s.mem.cp c.toNat
          = vs[((s.row.toNat - 1) * s.fw.toNat + (s.col.toNat - 1)) * s.fc.toNat + c.toNat]?)
    ∧ (∀ c : BitVec 2, c.toNat < s.ch.toNat → 0 < s.row.toNat →
        tableGet s.mem.cp c.toNat = vs[((s.row.toNat - 1) * s.fw.toNat + s.col.toNat) * s.fc.toNat + c.toNat]?)

/-! ## The invariant -/

/-- The invariant of the block: what holds at reset and after every step (each field names the rules it comes from). -/
structure Inv (s : State) : Prop where
  /-- The parameters are legal (R9). -/
  legal : s.cfg.legal = true
  /-- The tables keep their canonical form. -/
  memWf : s.mem.wf
  /-- No table holds an entry the instance lacks (R54 to R60, R96). -/
  memBounds : s.mem.inBounds s.cfg
  /-- ESC_LEN holds 0 to ESC_DEPTH (R43). -/
  escLen : s.escLen.toNat ≤ s.cfg.escDepth
  /-- ESC_RD holds 0 to ESC_DEPTH (R44). -/
  escRd : s.escRd.toNat ≤ s.cfg.escDepth
  /-- POS holds 0 to PAYLOAD_BYTES (R46). -/
  pos : s.pos.toNat ≤ s.cfg.payloadBytes
  /-- MODEL_VALID = 1 only over the only valid model (R64, R253). -/
  model : s.modelValid = true → UniformModel s
  /-- The predictor's position, count and context (R41, R59 to R62, R187). -/
  predictor : PredictorOk s

/-- In ENC mode the coder's state lies in its interval (R280, R286). Apart from Inv, since a RANS_ENC that draws its
frequency (R68) may leave it: R286 is derived with 1 <= f <= L - cf. -/
def EncoderInterval (s : State) : Prop :=
  s.rmode = .enc → s.cfg.low ≤ s.ransX.toNat ∧ s.ransX.toNat < s.cfg.low * 2 ^ 8

/-- The step's event is no RANS_ENC of a symbol whose FREQ entry nothing has written. -/
def NoDrawnFrequency (s : State) : Prop :=
  ∀ addr size rest y, s.pending = .write addr size (encode (.ransEnc y)) :: rest → tableGet s.mem.freq y.toNat ≠ none

/-! ## Parts of the state -/

/-- The predictor's registers and hidden state agree: position, count, latched frame, PSTATE. -/
def SamePredictor (s t : State) : Prop :=
  t.row = s.row ∧ t.col = s.col ∧ t.ch = s.ch ∧ t.fixedCnt = s.fixedCnt ∧ t.fw = s.fw ∧ t.fh = s.fh ∧ t.fc = s.fc
    ∧ t.fd = s.fd ∧ t.pstate = s.pstate

/-- The host's frame configuration registers agree: PRED_SIZE and PRED_FMT. -/
def SameFrameConfig (s t : State) : Prop :=
  t.predSize = s.predSize ∧ t.predChannels = s.predChannels ∧ t.predDomain = s.predDomain

/-- The escape indices agree. -/
def SameEscapes (s t : State) : Prop := t.escLen = s.escLen ∧ t.escRd = s.escRd

/-- The coder's registers and its mode agree: RANS_X, POS, RANS_CNT, RMODE. -/
def SameCoder (s t : State) : Prop :=
  t.ransX = s.ransX ∧ t.pos = s.pos ∧ t.ransCnt = s.ransCnt ∧ t.rmode = s.rmode

/-- The instance and the model's own port fields agree. -/
def SamePort (s t : State) : Prop :=
  t.cfg = s.cfg ∧ t.pending = s.pending ∧ t.reply = s.reply ∧ t.tick = s.tick

/-! ## Writes and command sequences -/

/-- The state a performed write takes effect on: its event is off the queue, `rest` still waits, the write completes on
the bus. -/
def atWrite (rest : List HostEvent) (s : State) : State := { accept rest s with reply := .writeDone }

/-- One command for each value of a list, in order, each with no fault: the RESULT after each, and the state at the
end. -/
def execEach {α : Type} (command : α → Instr) : List α → State → Option (List Word × State)
  | [], s => some ([], s)
  | a :: rest, s =>
    match exec (command a) s with
    | .next t =>
      if t.fault.isSome then none
      else
        match execEach command rest t with
        | some (vs, u) => some (t.result :: vs, u)
        | none => none
    | .fault _ | .refused _ => none

/-! ## Safe runs -/

/-- A host event the block performs (R84): hardware reset, or an aligned 4-byte access to its window. -/
def EventAdmitted (c : Params) : HostEvent → Prop
  | .read addr size => ∃ off, windowOffset c addr = some off ∧ admitted off size = true
  | .write addr size _ => ∃ off, windowOffset c addr = some off ∧ admitted off size = true
  | .hardReset => True

/-- Every event that waits at the port is one the block performs. -/
def PortAdmitted (s : State) : Prop := ∀ e ∈ s.pending, EventAdmitted s.cfg e

/-- A safe run: n steps reach a state, with no stop on the way. -/
def SafeRun (n : Nat) (s : State) : Prop := ∃ t, Sys2Proof.core.run n s = .next t

end Sys2Proof.Machine
end

