-- ==== Sys2Proof/Certificates/Slice0/Obligations.lean ====
section
/-! DEFINITION. The statements about the rANS32 codec block, for the provers. Each docstring names the rule of the spec
it formalises. Statements are over every state and every instance (State.cfg), not over runs from reset. -/

open Sys2Proof Sys2Proof.Machine

/-! ## Encoding -/

/-- R126, R127, R130: a word decodes to a command exactly when it is that command's word, so no word is two commands and
no operand bit is dropped. -/
def Obligations.DecodeAndEncodeAgree : Prop :=
  ∀ (w : Word) (i : Instr), decode w = some i ↔ encode i = w

/-- R126, R127: a word is illegal exactly when it matches no row of the opcode map under the row's mask. -/
def Obligations.IllegalExactlyOutsideTheMap : Prop :=
  ∀ w : Word, decode w = none ↔
    ∀ row ∈ [(0x00000000#32, 0xFFFFFFFF#32), (0x01000000#32, 0xFFFFFFFF#32), (0x02000000#32, 0xFFFFFFFF#32),
      (0x10000000#32, 0xFFFFFFFF#32), (0x11000000#32, 0xFFFF0000#32), (0x12000000#32, 0xFFFF0000#32),
      (0x20000000#32, 0xFFFFFFFF#32), (0x21000000#32, 0xFFFF0000#32), (0x22000000#32, 0xFFFFF000#32),
      (0x30000000#32, 0xFFFFFFFF#32), (0x40000000#32, 0xFFFFFFFF#32), (0x41000000#32, 0xFFFFF000#32),
      (0x42000000#32, 0xFFFFFFFF#32), (0x48000000#32, 0xFFFFFFFF#32), (0x49000000#32, 0xFFFFFFFF#32)],
      w &&& row.2 ≠ row.1

/-- R126: one word of each family, written out from its row. -/
def Obligations.WordsOfTheMapDecode : Prop :=
  decode 0x01000000#32 = some .clrFault ∧ decode 0x11008000#32 = some (.predRes 0x8000#16)
    ∧ decode 0x1200FFFB#32 = some (.predRec 0xFFFB#16) ∧ decode 0x21000800#32 = some (.symEnc 0x0800#16)
    ∧ decode 0x22000FFE#32 = some (.symDec 0xFFE#12) ∧ decode 0x30000000#32 = some .modelBuild
    ∧ decode 0x41000100#32 = some (.ransEnc 0x100#12) ∧ decode 0x49000000#32 = some .ransDec
    ∧ decode 0x41001000#32 = none ∧ decode 0x03000000#32 = none

/-! ## Issue, the fault gate and faults -/

/-- R162: a word that passed the gate is decoded; a legal word runs its command's rule as the whole step, an illegal word
raises ILLEGAL_CMD with info 0 and nothing else happens. `atWrite` is the port's part of the step. -/
def Obligations.StepRunsTheDecodedCommand : Prop :=
  ∀ (s : State) (rest : List HostEvent) (w : Word),
    s.pending = .write (s.cfg.blockBase + 0x04) 4 w :: rest →
    (s.fault = none ∨ w = 0x01000000#32 ∨ w = 0x02000000#32) →
    (∀ i, decode w = some i → step s = exec i (atWrite rest s))
      ∧ (decode w = none →
          step s = .next { atWrite rest s with fault := some { code := .illegalCmd, info := 0, cmd := w } })

/-- R161: while a record is held, a word that is neither CLR_FAULT nor SOFT_RESET is discarded: nothing of the block
changes and the write completes. With no record held every word passes the gate. -/
def Obligations.HeldFaultDiscardsTheCommand : Prop :=
  ∀ (s : State) (rest : List HostEvent) (w : Word),
    s.pending = .write (s.cfg.blockBase + 0x04) 4 w :: rest →
    (s.fault ≠ none → w ≠ 0x01000000#32 → w ≠ 0x02000000#32 → step s = .next (atWrite rest s))
      ∧ (s.fault = none → gateDiscards w s = false)

/-- R163, for every command: one that raises a fault makes none of its own writes; only the record changes, and it holds
the command's word. -/
def Obligations.FaultChangesOnlyTheRecord : Prop :=
  ∀ (i : Instr) (s t : State) (r : FaultRecord),
    s.fault = none → exec i s = .next t → t.fault = some r →
    t = { s with fault := some r } ∧ r.cmd = encode i

/-- R368: no step overwrites a held record, and the two words that pass the gate then cannot fault, so a record never
locks the block up. -/
def Obligations.HeldRecordIsNeverOverwritten : Prop :=
  (∀ (s t : State) (r : FaultRecord), s.fault = some r → step s = .next t → t.fault = some r ∨ t.fault = none)
    ∧ ∀ (s : State) (rest : List HostEvent) (w : Word),
        s.pending = .write (s.cfg.blockBase + 0x04) 4 w :: rest → w = 0x01000000#32 ∨ w = 0x02000000#32 →
        ∃ t, step s = .next t ∧ t.fault = none

/-! ## Control commands and reset -/

/-- R166: NOP completes and changes nothing; its variants with non-zero low bits are illegal words. -/
def Obligations.NopChangesNothing : Prop :=
  decode 0x00000000#32 = some .nop ∧ (∀ s : State, exec .nop s = .next s)
    ∧ ∀ w : Word, w.extractLsb' 24 8 = 0 → w ≠ 0 → decode w = none

/-- R167: CLR_FAULT passes the gate and completes; FAULT, FCODE, FAULT_INFO and FAULT_CMD read 0 and nothing else
changes. -/
def Obligations.ClrFaultDropsTheRecord : Prop :=
  decode 0x01000000#32 = some .clrFault ∧ ∀ s : State, gateDiscards 0x01000000#32 s = false
    ∧ ∃ t, exec .clrFault s = .next t
    ∧ t = { s with fault := none }
    ∧ (statusWord t).extractLsb' 0 1 = 0 ∧ (statusWord t).extractLsb' 4 4 = 0
    ∧ (statusWord t).extractLsb' 8 24 = (statusWord s).extractLsb' 8 24
    ∧ readReg .faultInfo t = 0 ∧ readReg .faultCmd t = 0

/-- R168, R401: SOFT_RESET passes the gate and completes; every register reads its reset value, every hidden item has it, and all table
contents are kept. -/
def Obligations.SoftResetKeepsOnlyTheTables : Prop :=
  decode 0x02000000#32 = some .softReset ∧ ∀ s : State, gateDiscards 0x02000000#32 s = false
    ∧ ∃ t, exec .softReset s = .next t
    ∧ readReg .id t = 0x534E4152#32
    ∧ (∀ r ∈ [Reg.cmd, .status, .result, .predSize, .predFmt, .predPos, .predCh, .predFixedCnt, .predAdaptCnt,
        .escLen, .escRd, .ransX, .payLen, .ransCnt, .faultInfo, .faultCmd], readReg r t = 0)
    ∧ (∀ r ∈ [Reg.capPayload, .capEsc, .capMisc], readReg r t = readReg r s)
    ∧ t.fw = 0 ∧ t.fh = 0 ∧ t.fc = 0 ∧ t.fd = 0 ∧ t.pstate = .off ∧ t.rmode = .idle ∧ t.modelValid = false
    ∧ t.mem = s.mem ∧ SamePort s t

/-- R400, R32: the registers and hidden items after hardware reset, with no table entry written; and the reset event
brings the block there in one step. That the events behind it still wait, and that the free values go on, is the model's
choice (log entry 14). -/
def Obligations.ResetLeavesEveryRegister : Prop :=
  (∀ c : Params, let s := State.resetWith c
    readReg .id s = 0x534E4152#32
      ∧ (∀ r ∈ [Reg.cmd, .status, .result, .predSize, .predFmt, .predPos, .predCh, .predFixedCnt, .predAdaptCnt,
          .escLen, .escRd, .ransX, .payLen, .ransCnt, .faultInfo, .faultCmd], readReg r s = 0)
      ∧ readReg .capPayload s = BitVec.ofNat 32 c.payloadBytes ∧ readReg .capEsc s = BitVec.ofNat 32 c.escDepth
      ∧ s.fw = 0 ∧ s.fh = 0 ∧ s.fc = 0 ∧ s.fd = 0 ∧ s.pstate = .off ∧ s.rmode = .idle ∧ s.modelValid = false
      ∧ ∀ i, tableGet s.mem.freq i = none ∧ tableGet s.mem.cum i = none ∧ tableGet s.mem.lut i = none
          ∧ tableGet s.mem.esc i = none ∧ tableGet s.mem.pay i = none ∧ tableGet s.mem.lb i = none
          ∧ tableGet s.mem.cp i = none)
    ∧ readReg .capMisc (State.resetWith Params.testVectors) = 0x0C100040#32
    ∧ ∀ (s : State) (rest : List HostEvent), s.pending = .hardReset :: rest →
        step s = .next { State.resetWith s.cfg with pending := rest, tick := s.tick + 1 }

/-! ## The invariant -/

/-- The invariant and the encoder's interval hold at reset, for the instance State.reset stands for and for every legal
one. -/
def Obligations.InvariantHoldsAtReset : Prop :=
  (Inv State.reset ∧ EncoderInterval State.reset)
    ∧ ∀ c : Params, c.legal = true → Inv (State.resetWith c) ∧ EncoderInterval (State.resetWith c)

/-- R41, R43, R44, R46, R59 to R64, R253: every step, whatever the event, keeps the invariant: canonical and bounded
tables, bounded indices, the uniform model under MODEL_VALID, and the predictor's position, count and written context;
and it keeps the encoder's interval (R280, R286), unless it is a RANS_ENC that draws its frequency (R68). Over entries
nothing has written the model clause rests on the model's choices of log entries 5 (one MODEL_BUILD sees one draw an
entry) and 15, and what a RANS_ENC over a drawn frequency of 0 leaves is that of log entry 7. -/
def Obligations.StepKeepsTheInvariant : Prop :=
  ∀ s t : State, Inv s → step s = .next t → Inv t ∧ (EncoderInterval s → NoDrawnFrequency s → EncoderInterval t)

/-- R97, R165, R296: from any state of the invariant with admitted events at the port, a run of any length completes, in
a state of the invariant: no command ever blocks the block. Over FREQ entries nothing has written the invariant
rests on the model's choices of log entries 5 and 15; and that the run does not stop at a RANS_ENC over a drawn frequency
of 0, or at a coder state above 32 bits, is no rule of the spec but the model's choice (log entry 7). -/
def Obligations.AdmittedRunsNeverStop : Prop :=
  ∀ (n : Nat) (s : State), Inv s → PortAdmitted s →
    ∃ t, Sys2Proof.core.run n s = .next t ∧ Inv t ∧ PortAdmitted t

/-- Every command completes in every state, whatever the tables hold and whatever is drawn: none is refused and none
stops. Where the commands' rules state an effect this is theirs (R165: a command retires as one step). Where they state
none, for a frequency of 0 or a coder state above 32 bits, that RANS_ENC and RANS_DEC complete is the model's choice (log
entry 7, DESIGN CHOICE). The tables of the only valid model, once written, satisfy the laws of R252. -/
def Obligations.EveryCommandCompletes : Prop :=
  (∀ (i : Instr) (s : State), ∃ t, exec i s = .next t)
    ∧ ∀ s : State, UniformModel s → (∀ i < 4096, tableGet s.mem.freq i ≠ none) → ConsistentModel s

/-! ## The port -/

/-- R86: a read changes nothing of the block, only what the port answers; and two reads of one offset with nothing between
them answer the same, except for a table entry that nothing has written. -/
def Obligations.ReadsHaveNoSideEffect : Prop :=
  (∀ (s t : State) (rest : List HostEvent) (addr size : Nat),
      s.pending = .read addr size :: rest → step s = .next t → ∃ v, t = { accept rest s with reply := .readData v })
    ∧ ∀ (s t u : State) (off : Nat),
        (∀ i, targetAt s.cfg off = .freq i → tableGet s.mem.freq i ≠ none) →
        (∀ i, targetAt s.cfg off = .cum i → tableGet s.mem.cum i ≠ none) →
        (∀ i, targetAt s.cfg off = .lut i → tableGet s.mem.lut i ≠ none) →
        (∀ i, targetAt s.cfg off = .esc i → tableGet s.mem.esc i ≠ none) →
        (∀ i, targetAt s.cfg off = .pay i → tableGet s.mem.pay i ≠ none) →
        memRead off s = .next t → memRead off t = .next u → u.reply = t.reply

/-- R32 to R53: what a read of each register's offset answers. -/
def Obligations.RegisterReadsFollowTheMap : Prop :=
  ∀ s : State, ∀ p ∈ [(0x00, 0x534E4152#32), (0x04, 0#32), (0x08, statusWord s), (0x0C, s.result),
      (0x10, s.predSize), (0x14, (s.predDomain.setWidth 32 <<< 8) ||| s.predChannels.setWidth 32),
      (0x18, (s.row.setWidth 32 <<< 16) ||| s.col.setWidth 32), (0x1C, s.ch.setWidth 32), (0x20, s.fixedCnt),
      (0x24, 0#32), (0x28, s.escLen.setWidth 32), (0x2C, s.escRd.setWidth 32), (0x30, s.ransX),
      (0x34, s.pos.setWidth 32), (0x38, s.ransCnt), (0x3C, (s.fault.map FaultRecord.info).getD 0),
      (0x40, (s.fault.map FaultRecord.cmd).getD 0), (0x44, BitVec.ofNat 32 s.cfg.payloadBytes),
      (0x48, BitVec.ofNat 32 s.cfg.escDepth)],
    memRead p.1 s = .next { s with tick := s.tick + 1, reply := .readData p.2 }

/-- R52: CAP_MISC's fields, for a legal instance. -/
def Obligations.CapMiscHoldsTheParameters : Prop :=
  ∀ s : State, s.cfg.legal = true → ∃ v, memRead 0x4C s = .next { s with tick := s.tick + 1, reply := .readData v }
    ∧ (v.extractLsb' 0 16).toNat = s.cfg.maxWidth ∧ (v.extractLsb' 16 5).toNat = s.cfg.ransB
    ∧ v.extractLsb' 21 3 = 0 ∧ v.extractLsb' 24 4 = 12 ∧ v.extractLsb' 28 4 = 0

/-- R35, R362: the fields of STATUS and its reserved bits, and the numbers of the fault codes. -/
def Obligations.StatusHoldsItsFields : Prop :=
  ∀ s : State, let w := statusWord s
    (w.extractLsb' 0 1 = 1 ↔ s.fault ≠ none) ∧ w.extractLsb' 1 3 = 0
      ∧ (s.fault = none → w.extractLsb' 4 4 = 0)
      ∧ (∀ r, s.fault = some r → w.extractLsb' 4 4 = faultCode r.code
          ∧ 1 ≤ (faultCode r.code).toNat ∧ (faultCode r.code).toNat ≤ 11)
      ∧ faultCode .illegalCmd = 1 ∧ faultCode .badConfig = 2 ∧ faultCode .predState = 3 ∧ faultCode .badPixel = 4
      ∧ faultCode .escOverflow = 5 ∧ faultCode .escUnderflow = 6 ∧ faultCode .modelInvalid = 7 ∧ faultCode .noModel = 8
      ∧ faultCode .ransState = 9 ∧ faultCode .bufOverflow = 10 ∧ faultCode .ransUnderflow = 11
      ∧ (w.extractLsb' 8 1 = 1 ↔ s.modelValid = true) ∧ (w.extractLsb' 9 1 = 1 ↔ s.pstate = .active)
      ∧ (w.extractLsb' 10 1 = 1 ↔ s.pstate = .done) ∧ w.extractLsb' 11 1 = 0
      ∧ (w.extractLsb' 12 2 = 0 ↔ s.rmode = .idle) ∧ (w.extractLsb' 12 2 = 1 ↔ s.rmode = .enc)
      ∧ (w.extractLsb' 12 2 = 2 ↔ s.rmode = .dec) ∧ w.extractLsb' 14 18 = 0

/-- R84: an access to the window that is not 4 bytes at a multiple of 4 has no step. -/
def Obligations.UnadmittedAccessIsRefused : Prop :=
  ∀ (s : State) (rest : List HostEvent) (off size : Nat) (v : Word),
    off < 2 ^ 27 → size ≠ 4 ∨ off % 4 ≠ 0 →
    (s.pending = .read (s.cfg.blockBase + off) size :: rest → step s = .refused .busError)
      ∧ (s.pending = .write (s.cfg.blockBase + off) size v :: rest → step s = .refused .busError)

/-- R53, R81, R85, R96: reserved space, entries beyond the instance's depth among it, reads 0 and ignores writes, without
error. -/
def Obligations.ReservedSpaceReadsZero : Prop :=
  ∀ (s : State) (off : Nat) (v : Word), off % 4 = 0 →
    (0x50 ≤ off ∧ off < 0x4000) ∨ (0x10000 ≤ off ∧ off < 0x100000) ∨ (0x200000 ≤ off ∧ off < 0x4000000)
      ∨ (0x100000 + 4 * s.cfg.escDepth ≤ off ∧ off < 0x200000)
      ∨ (0x4000000 + 4 * s.cfg.payloadBytes ≤ off ∧ off < 0x8000000) →
    memRead off s = .next { s with tick := s.tick + 1, reply := .readData 0 }
      ∧ memWrite off v s = .next { s with tick := s.tick + 1, reply := .writeDone }

/-- R91: a FREQ write stores v[15:0] in its entry, clears MODEL_VALID and changes nothing else; a read returns the entry
zero-extended. -/
def Obligations.FreqWindowStoresAndInvalidates : Prop :=
  ∀ (s : State) (i : Nat) (v : Word), i < 4096 →
    (∃ t, memWrite (0x4000 + 4 * i) v s = .next t
        ∧ tableGet t.mem.freq i = some (v.extractLsb' 0 16)
        ∧ (∀ j, j ≠ i → tableGet t.mem.freq j = tableGet s.mem.freq j)
        ∧ t = { s with modelValid := false, mem := { s.mem with freq := t.mem.freq }, tick := s.tick + 1,
                       reply := .writeDone })
      ∧ ∀ x, tableGet s.mem.freq i = some x →
        memRead (0x4000 + 4 * i) s = .next { s with tick := s.tick + 1, reply := .readData (x.setWidth 32) }

/-- R92, R93: CUM and LUT are read only; an entry a build wrote reads zero-extended. -/
def Obligations.CumAndLutWindowsAreReadOnly : Prop :=
  ∀ (s : State) (i : Nat) (v : Word), i < 4096 →
    memWrite (0x8000 + 4 * i) v s = .next { s with tick := s.tick + 1, reply := .writeDone }
      ∧ memWrite (0xC000 + 4 * i) v s = .next { s with tick := s.tick + 1, reply := .writeDone }
      ∧ (∀ x, tableGet s.mem.cum i = some x →
          memRead (0x8000 + 4 * i) s = .next { s with tick := s.tick + 1, reply := .readData (x.setWidth 32) })
      ∧ ∀ x, tableGet s.mem.lut i = some x →
          memRead (0xC000 + 4 * i) s = .next { s with tick := s.tick + 1, reply := .readData (x.setWidth 32) }

/-- R94: an ESC write stores v[15:0] and changes nothing else; a read returns the entry sign-extended. -/
def Obligations.EscWindowSignExtends : Prop :=
  ∀ (s : State) (i : Nat) (v : Word), i < s.cfg.escDepth → i < 2 ^ 18 →
    (∃ t, memWrite (0x100000 + 4 * i) v s = .next t
        ∧ tableGet t.mem.esc i = some (v.extractLsb' 0 16)
        ∧ (∀ j, j ≠ i → tableGet t.mem.esc j = tableGet s.mem.esc j)
        ∧ t = { s with mem := { s.mem with esc := t.mem.esc }, tick := s.tick + 1, reply := .writeDone })
      ∧ ∀ x, tableGet s.mem.esc i = some x →
        memRead (0x100000 + 4 * i) s = .next { s with tick := s.tick + 1, reply := .readData (x.signExtend 32) }

/-- R95: a PAY write stores v[7:0], in any mode, and changes nothing else; a read returns the byte zero-extended. -/
def Obligations.PayWindowHoldsBytes : Prop :=
  ∀ (s : State) (i : Nat) (v : Word), i < s.cfg.payloadBytes → i < 2 ^ 24 →
    (∃ t, memWrite (0x4000000 + 4 * i) v s = .next t
        ∧ tableGet t.mem.pay i = some (v.extractLsb' 0 8)
        ∧ (∀ j, j ≠ i → tableGet t.mem.pay j = tableGet s.mem.pay j)
        ∧ t = { s with mem := { s.mem with pay := t.mem.pay }, tick := s.tick + 1, reply := .writeDone })
      ∧ ∀ x, tableGet s.mem.pay i = some x →
        memRead (0x4000000 + 4 * i) s = .next { s with tick := s.tick + 1, reply := .readData (x.setWidth 32) }

/-- R37, R38, R43, R44, R46: the writable registers, with the writes their legal-value rules ignore. -/
def Obligations.WritableRegistersTakeLegalValues : Prop :=
  ∀ (s : State) (v : Word), s.cfg.legal = true →
    let done : State := { s with tick := s.tick + 1, reply := .writeDone }
    memWrite 0x10 v s = .next { done with predSize := v }
      ∧ memWrite 0x14 v s
          = .next { done with predChannels := v.extractLsb' 0 2, predDomain := v.extractLsb' 8 1 }
      ∧ (v.toNat ≤ s.cfg.escDepth → ∃ t, memWrite 0x28 v s = .next t ∧ t = { done with escLen := t.escLen }
          ∧ t.escLen.toNat = v.toNat)
      ∧ (s.cfg.escDepth < v.toNat → memWrite 0x28 v s = .next done)
      ∧ (v.toNat ≤ s.cfg.escDepth → ∃ t, memWrite 0x2C v s = .next t ∧ t = { done with escRd := t.escRd }
          ∧ t.escRd.toNat = v.toNat)
      ∧ (s.cfg.escDepth < v.toNat → memWrite 0x2C v s = .next done)
      ∧ (s.rmode = .idle → v.toNat ≤ s.cfg.payloadBytes → ∃ t, memWrite 0x34 v s = .next t
          ∧ t = { done with pos := t.pos } ∧ t.pos.toNat = v.toNat)
      ∧ (s.rmode ≠ .idle ∨ s.cfg.payloadBytes < v.toNat → memWrite 0x34 v s = .next done)

/-- R32, R87: writes to read-only registers are ignored. -/
def Obligations.ReadOnlyRegistersIgnoreWrites : Prop :=
  ∀ (s : State) (v : Word), ∀ off ∈ [0x00, 0x08, 0x0C, 0x18, 0x1C, 0x20, 0x24, 0x30, 0x38, 0x3C, 0x40, 0x44, 0x48,
      0x4C],
    memWrite off v s = .next { s with tick := s.tick + 1, reply := .writeDone }

/-! ## The predictor -/

/-- R181, R182: MED takes the three branches of R181, and lies between min(A, B) and max(A, B). -/
def Obligations.MedStaysBetweenItsNeighbours : Prop :=
  ∀ a b c : Int, min a b ≤ med a b c ∧ med a b c ≤ max a b
    ∧ (c ≥ max a b → med a b c = min a b) ∧ (c < max a b → c ≤ min a b → med a b c = max a b)
    ∧ (min a b < c → c < max a b → med a b c = a + b - c)

/-- R183: PRED_INIT on an acceptable configuration completes: it latches the configuration and starts at sample 0 with
an empty context; it changes nothing else. Otherwise it faults BAD_CONFIG, with the first failing check's info. -/
def Obligations.PredInitLatchesOrRejects : Prop :=
  ∀ s : State, let w := s.predSize.extractLsb' 0 16; let h := s.predSize.extractLsb' 16 16
    let reject (info : Word) : Prop :=
      exec .predInit s = .next { s with fault := some { code := .badConfig, info := info, cmd := 0x10000000#32 } }
    (1 ≤ w.toNat ∧ w.toNat ≤ s.cfg.maxWidth → 1 ≤ h.toNat → s.predChannels = 1 ∨ s.predChannels = 3 →
        exec .predInit s = .next { s with
          fw := w, fh := h, fc := s.predChannels, fd := s.predDomain, row := 0, col := 0, ch := 0, pstate := .active,
          fixedCnt := 0 })
      ∧ (w.toNat = 0 ∨ s.cfg.maxWidth < w.toNat → reject 1)
      ∧ (1 ≤ w.toNat ∧ w.toNat ≤ s.cfg.maxWidth → h.toNat = 0 → reject 2)
      ∧ (1 ≤ w.toNat ∧ w.toNat ≤ s.cfg.maxWidth → 1 ≤ h.toNat → s.predChannels = 0 ∨ s.predChannels = 2 → reject 3)

/-- R188: PRED_RES in an active frame, on a sample of the domain, completes: RESULT is the 16-bit wrapped difference,
sign-extended; the sample is stored and counted, and the old LB entry goes to CP (one nothing has written as the step's
draw, log entry 5). Outside an active frame it faults PRED_STATE, and on an 8-bit sample
above 255 BAD_PIXEL. -/
def Obligations.PredResGivesTheWrappedResidual : Prop :=
  ∀ (s : State) (v : Half),
    (s.pstate = .active → (s.fd = 0 → v.toNat ≤ 255) → ∃ t, exec (.predRes v) s = .next t
        ∧ t.result = (v - BitVec.ofInt 16 (prediction s)).signExtend 32
        ∧ tableGet t.mem.lb (lineIndex s.ch s.col.toNat) = some v
        ∧ tableGet t.mem.cp s.ch.toNat = some (readLine s s.ch s.col.toNat)
        ∧ t.fixedCnt = s.fixedCnt + 1 ∧ t.fault = s.fault)
      ∧ (s.pstate = .off → exec (.predRes v) s
          = .next { s with fault := some { code := .predState, info := 0, cmd := 0x1100#16 ++ v } })
      ∧ (s.pstate = .done → exec (.predRes v) s
          = .next { s with fault := some { code := .predState, info := 2, cmd := 0x1100#16 ++ v } })
      ∧ (s.pstate = .active → s.fd = 0 → 255 < v.toNat → exec (.predRes v) s
          = .next { s with fault := some { code := .badPixel, info := v.setWidth 32, cmd := 0x1100#16 ++ v } })

/-- R189: PRED_REC in an active frame completes: in the 8-bit domain the sum of prediction and residual clamped to 0 to
255, in the 16-bit domain the wrapped sum; the value is in RESULT, stored and counted, and the old LB entry goes to CP
(one nothing has written as the step's draw, log entry 5). Else it faults PRED_STATE. -/
def Obligations.PredRecReconstructs : Prop :=
  ∀ (s : State) (r : Half),
    (s.pstate = .active → ∃ t, exec (.predRec r) s = .next t
        ∧ (s.fd = 0 → t.result = BitVec.ofInt 32 (min 255 (max 0 (prediction s + r.toInt))))
        ∧ (s.fd = 1 → t.result = (BitVec.ofInt 16 (prediction s) + r).signExtend 32)
        ∧ tableGet t.mem.lb (lineIndex s.ch s.col.toNat) = some (t.result.setWidth 16)
        ∧ tableGet t.mem.cp s.ch.toNat = some (readLine s s.ch s.col.toNat)
        ∧ t.fixedCnt = s.fixedCnt + 1 ∧ t.fault = s.fault)
      ∧ (s.pstate = .off → exec (.predRec r) s
          = .next { s with fault := some { code := .predState, info := 0, cmd := 0x1200#16 ++ r } })
      ∧ (s.pstate = .done → exec (.predRec r) s
          = .next { s with fault := some { code := .predState, info := 2, cmd := 0x1200#16 ++ r } })

/-- R180, R187: a sample moves the position to the next flat index; the frame is DONE exactly after its last sample,
with ROW = FH, COL = 0, CH = 0. -/
def Obligations.PositionAdvancesInRasterOrder : Prop :=
  ∀ (s t : State) (v : Half), s.pstate = .active → PositionInFrame s →
    (exec (.predRes v) s = .next t ∧ (s.fd = 0 → v.toNat ≤ 255)) ∨ exec (.predRec v) s = .next t →
    sampleIndex t = sampleIndex s + 1
      ∧ (sampleIndex t < s.fw.toNat * s.fh.toNat * s.fc.toNat → t.pstate = .active ∧ PositionInFrame t)
      ∧ (sampleIndex t = s.fw.toNat * s.fh.toNat * s.fc.toNat →
          t.pstate = .done ∧ t.row = s.fh ∧ t.col = 0 ∧ t.ch = 0)
      ∧ sampleIndex t ≤ s.fw.toNat * s.fh.toNat * s.fc.toNat

/-- R59, R60, R183, R186: PRED_INIT starts with the context of no samples, and each sample command extends the samples
the line buffer and the above-left registers hold by the value it stores, PRED_RES the sample itself, PRED_REC the
reconstructed one. -/
def Obligations.StoredSamplesFormTheContext : Prop :=
  (∀ s t : State, exec .predInit s = .next t → t.fault = none → HoldsContext t [])
    ∧ ∀ (s t : State) (vs : List Half), s.pstate = .active → PositionInFrame s → HoldsContext s vs →
        (∀ v, (s.fd = 0 → v.toNat ≤ 255) → exec (.predRes v) s = .next t → HoldsContext t (vs ++ [v]))
          ∧ ∀ r, exec (.predRec r) s = .next t → HoldsContext t (vs ++ [t.result.setWidth 16])

/-- R184, R185: in every state the neighbours are the entries LB[CH][COL-1], LB[CH][COL] and CP[CH], or 0 by the guards
of R184, and the prediction is MED of the three; in a frame they are its stored samples left, above and above-left of the
next one, in its own channel, so no unwritten entry is used. That an entry is read as 16-bit two's complement in both
domains is the model's reading (log entry 17). -/
def Obligations.NeighboursAreTheCausalSamples : Prop :=
  (∀ s : State,
    (s.col = 0 → leftNeighbour s = 0)
      ∧ (s.col ≠ 0 → leftNeighbour s = (readLine s s.ch (s.col.toNat - 1)).toInt)
      ∧ (s.row = 0 → aboveNeighbour s = 0) ∧ (s.row ≠ 0 → aboveNeighbour s = (readLine s s.ch s.col.toNat).toInt)
      ∧ (s.row = 0 ∨ s.col = 0 → aboveLeftNeighbour s = 0)
      ∧ (s.row ≠ 0 → s.col ≠ 0 → aboveLeftNeighbour s = (readAboveLeft s s.ch).toInt)
      ∧ prediction s = med (leftNeighbour s) (aboveNeighbour s) (aboveLeftNeighbour s))
  ∧ ∀ (s : State) (vs : List Half), PositionInFrame s → HoldsContext s vs →
    let at' (r c : Nat) : Option Half := vs[(r * s.fw.toNat + c) * s.fc.toNat + s.ch.toNat]?
    (s.col ≠ 0 → ∃ a, at' s.row.toNat (s.col.toNat - 1) = some a ∧ leftNeighbour s = a.toInt)
      ∧ (s.row ≠ 0 → ∃ b, at' (s.row.toNat - 1) s.col.toNat = some b ∧ aboveNeighbour s = b.toInt)
      ∧ (s.row ≠ 0 → s.col ≠ 0 →
          ∃ c, at' (s.row.toNat - 1) (s.col.toNat - 1) = some c ∧ aboveLeftNeighbour s = c.toInt)

/-- R190: for the residual PRED_RES gives, prediction plus residual is the sample, exactly in the 8-bit domain and
wrapped in the 16-bit one; so from one state of the invariant PRED_REC of that residual leaves the state PRED_RES leaves,
but for RESULT, which holds the sample. -/
def Obligations.ReconstructionInvertsResidual : Prop :=
  ∀ (s : State) (v : Half), Inv s → s.pstate = .active → (s.fd = 0 → v.toNat ≤ 255) →
    ∃ t, exec (.predRes v) s = .next t
      ∧ (s.fd = 0 → prediction s + t.result.toInt = v.toNat)
      ∧ (s.fd ≠ 0 → wrap16 (prediction s + t.result.toInt) = v.toInt)
      ∧ exec (.predRec (t.result.setWidth 16)) s
        = .next { t with result := if s.fd = 0 then v.setWidth 32 else v.signExtend 32 }

/-- R191: PRED_RES over a grid and PRED_REC over its residuals give the grid back, in both domains. -/
def Obligations.PredictorRoundTrip : Prop :=
  ∀ (s : State) (grid : List Half), let w := s.predSize.extractLsb' 0 16; let h := s.predSize.extractLsb' 16 16
    s.cfg.legal = true → s.fault = none → 1 ≤ w.toNat → w.toNat ≤ s.cfg.maxWidth → 1 ≤ h.toNat →
    s.predChannels = 1 ∨ s.predChannels = 3 → grid.length = w.toNat * h.toNat * s.predChannels.toNat →
    (s.predDomain = 0 → ∀ v ∈ grid, v.toNat ≤ 255) →
    ∃ s1 res s2 s3 out s4, exec .predInit s = .next s1 ∧ execEach .predRes grid s1 = some (res, s2)
      ∧ exec .predInit s2 = .next s3
      ∧ execEach .predRec (res.map (fun x : Word => x.setWidth 16)) s3 = some (out, s4)
      ∧ out.map (fun x : Word => x.setWidth 16) = grid ∧ s2.pstate = .done ∧ s4.pstate = .done

/-! ## The symbolizer -/

/-- R220, R221: the closed forms of zigzag and its inverse; zigzag is the source's shift-and-XOR, evaluated in 16 or in
32 bits, maps into 0 to 65535, and unzigzag inverts it on both sides. -/
def Obligations.ZigzagIsTheShiftXorBijection : Prop :=
  (∀ r : Half, (0 ≤ r.toInt → (zigzag r.toInt : Int) = 2 * r.toInt)
      ∧ (r.toInt < 0 → (zigzag r.toInt : Int) = -2 * r.toInt - 1)
      ∧ zigzag r.toInt = ((r <<< 1) ^^^ (r.sshiftRight 15)).toNat
      ∧ zigzag r.toInt = ((r.signExtend 32 <<< 1) ^^^ ((r.signExtend 32).sshiftRight 15)).toNat
      ∧ zigzag r.toInt < 65536 ∧ unzigzag (zigzag r.toInt) = r.toInt)
    ∧ ∀ u : Nat, u < 65536 → (u % 2 = 0 → unzigzag u = (u / 2 : Nat)) ∧ (u % 2 = 1 → unzigzag u = -((u + 1) / 2 : Nat))
        ∧ zigzag (unzigzag u) = u ∧ -32768 ≤ unzigzag u ∧ unzigzag u ≤ 32767

/-- R222: exactly the residuals -2047 to 2047 have a direct symbol. -/
def Obligations.DirectResidualsAreTheSmallOnes : Prop :=
  ∀ r : Half, zigzag r.toInt < 4095 ↔ -2047 ≤ r.toInt ∧ r.toInt ≤ 2047

/-- R223: SYM_INIT completes; ESC_LEN and ESC_RD are 0 and nothing else changes. -/
def Obligations.SymInitClearsTheIndices : Prop :=
  decode 0x20000000#32 = some .symInit ∧ ∀ s : State, exec .symInit s = .next { s with escLen := 0, escRd := 0 }

/-- R224: SYM_ENC completes with the direct symbol, or with ESC_SYM and the raw residual appended at ESC_LEN; an escape
into a full buffer faults ESC_OVERFLOW. Nothing else changes. -/
def Obligations.SymEncGivesSymbolOrEscape : Prop :=
  ∀ (s : State) (v : Half),
    (-2047 ≤ v.toInt ∧ v.toInt ≤ 2047 →
        exec (.symEnc v) s = .next { s with result := ((v <<< 1) ^^^ (v.sshiftRight 15)).setWidth 32 })
      ∧ (v.toInt < -2047 ∨ 2047 < v.toInt → s.escLen.toNat < s.cfg.escDepth → ∃ t, exec (.symEnc v) s = .next t
          ∧ tableGet t.mem.esc s.escLen.toNat = some v
          ∧ (∀ j, j ≠ s.escLen.toNat → tableGet t.mem.esc j = tableGet s.mem.esc j)
          ∧ t = { s with mem := { s.mem with esc := t.mem.esc }, escLen := s.escLen + 1, result := 4095 })
      ∧ (v.toInt < -2047 ∨ 2047 < v.toInt → s.cfg.escDepth ≤ s.escLen.toNat → exec (.symEnc v) s
          = .next { s with
              fault := some { code := .escOverflow, info := s.escLen.setWidth 32, cmd := 0x2100#16 ++ v } })

/-- R226: SYM_DEC completes with the inverse zigzag of a direct symbol, or with the next escape value, sign-extended; an
escape symbol with the list used up faults ESC_UNDERFLOW. Nothing else changes. -/
def Obligations.SymDecGivesResidualOrEscape : Prop :=
  ∀ (s : State) (y : Sym),
    (y.toNat < 4095 → y.toNat % 2 = 0 → exec (.symDec y) s = .next { s with result := BitVec.ofNat 32 (y.toNat / 2) })
      ∧ (y.toNat < 4095 → y.toNat % 2 = 1 →
          exec (.symDec y) s = .next { s with result := -(BitVec.ofNat 32 ((y.toNat + 1) / 2)) })
      ∧ (y.toNat = 4095 → s.escRd.toNat < s.escLen.toNat → exec (.symDec y) s
          = .next { s with result := (readEsc s s.escRd.toNat).signExtend 32, escRd := s.escRd + 1 })
      ∧ (y.toNat = 4095 → s.escLen.toNat ≤ s.escRd.toNat → exec (.symDec y) s
          = .next { s with
              fault := some { code := .escUnderflow, info := s.escRd.setWidth 32, cmd := 0x22000FFF#32 } })

/-- R228: SYM_ENC over residuals whose escapes fit, then SYM_DEC over the symbols with ESC_RD set to 0, give the
residuals back. -/
def Obligations.SymbolizerRoundTrip : Prop :=
  ∀ (s : State) (res : List Half), s.cfg.legal = true → s.fault = none →
    res.countP (fun r => 4095 ≤ zigzag r.toInt) ≤ s.cfg.escDepth →
    ∃ s1 syms s2 out s3, exec .symInit s = .next s1 ∧ execEach .symEnc res s1 = some (syms, s2)
      ∧ execEach .symDec (syms.map (fun x : Word => x.setWidth 12)) { s2 with escRd := 0 } = some (out, s3)
      ∧ out.map (fun x : Word => x.setWidth 16) = res ∧ s3.escRd = s3.escLen

/-! ## The static model -/

/-- R251, R253: MODEL_BUILD completes on the table with every frequency 1, giving CUM[i] = LUT[i] = i, and on no other:
there it faults MODEL_INVALID. Nothing else changes. Over FREQ entries nothing has written this is the model's choice:
the check, the sum and the build see one drawn value (log entry 5), and a fault leaves MODEL_VALID as it was (log entry
15). -/
def Obligations.ModelBuildAcceptsOnlyAllOnes : Prop :=
  ∀ s : State,
    ((∀ i < 4096, readFreq s i = 1) → ∃ t, exec .modelBuild s = .next t
        ∧ (∀ i < 4096, tableGet t.mem.cum i = some (BitVec.ofNat 12 i)
            ∧ tableGet t.mem.lut i = some (BitVec.ofNat 12 i))
        ∧ t = { s with modelValid := true, mem := { s.mem with cum := t.mem.cum, lut := t.mem.lut } })
      ∧ ((∃ i < 4096, readFreq s i ≠ 1) → ∃ info, exec .modelBuild s
          = .next { s with fault := some { code := .modelInvalid, info := info, cmd := 0x30000000#32 } })

/-- R251: MODEL_BUILD's two faults: the lowest zero entry first, and only without one a total other than 4096. Over FREQ
entries nothing has written it is the model's choice that the check and the sum see one drawn value (log entry 5). -/
def Obligations.ModelBuildReportsTheFirstProblem : Prop :=
  ∀ s : State, let total := ((List.range 4096).map (fun i => (readFreq s i).toNat)).sum
    (∀ z < 4096, readFreq s z = 0 → (∀ i < z, readFreq s i ≠ 0) → exec .modelBuild s
        = .next { s with
            fault := some { code := .modelInvalid, info := BitVec.ofNat 32 z, cmd := 0x30000000#32 } })
      ∧ ((∀ i < 4096, readFreq s i ≠ 0) → total ≠ 4096 → total < 2 ^ 28 ∧ exec .modelBuild s
          = .next { s with
              fault := some { code := .modelInvalid, info := BitVec.ofNat 32 (2 ^ 31 + total), cmd := 0x30000000#32 } })

/-- R252: CUM is the exclusive prefix sum of the frequencies, and every slot of a symbol's range looks that symbol up:
of the tables' construction, for any frequencies that are at least 1 and sum to at most L. -/
def Obligations.BuiltTablesTileTheSlots : Prop :=
  ∀ (fs : List Nat), (∀ f ∈ fs, 1 ≤ f) → fs.sum ≤ 4096 → ∀ y < fs.length,
    tableGet (buildCum fs 0 0) y = some (BitVec.ofNat 12 (fs.take y).sum)
      ∧ ∀ slot, (fs.take y).sum ≤ slot → slot < (fs.take (y + 1)).sum →
          tableGet (buildLut fs 0 0) slot = some (BitVec.ofNat 12 y)

/-! ## The rANS coder -/

/-- R284: RANS_ENC_INIT completes in every mode: X = 2^RANS_B, POS = 0, ENC, RANS_CNT = 0, and nothing else changes. -/
def Obligations.RansEncInitStartsTheEncoder : Prop :=
  decode 0x40000000#32 = some .ransEncInit ∧ ∀ s : State, s.cfg.legal = true → ∃ t, exec .ransEncInit s = .next t ∧ t.ransX.toNat = 2 ^ s.cfg.ransB
    ∧ t = { s with ransX := t.ransX, pos := 0, rmode := .enc, ransCnt := 0 }

/-- R282, R283, R285: RANS_ENC in ENC mode with MODEL_VALID = 1 and f >= 1: for the number k of bytes that bring X below
f * 2^(RANS_B - 4), it completes when they fit, pushing the low k bytes of X lowest first at POS, and X becomes
(x div f) * 4096 + x mod f + cf for the shifted x; when they do not fit it faults BUF_OVERFLOW. Its mode faults come
first. In a run only a draw can be f = 0 (R68, R253), or give a state above 32 bits: there the number of bytes and the new X are
free values, the model's choice of log entry 7, and all else is as before. -/
def Obligations.RansEncPushesAndUpdates : Prop :=
  ∀ (s : State) (y : Sym), s.cfg.legal = true →
    let f := (readFreq s y.toNat).toNat; let cf := (readCum s y.toNat).toNat; let x0 := s.ransX.toNat
    (s.rmode = .enc → s.modelValid = true →
      ∀ k, (f = 0 ∧ k = Config.freeShifts s.tick
          ∨ 1 ≤ f ∧ x0 / 2 ^ (8 * k) < f * 2 ^ (s.cfg.ransB - 4)
            ∧ ∀ j < k, f * 2 ^ (s.cfg.ransB - 4) ≤ x0 / 2 ^ (8 * j)) →
        let v := (x0 / 2 ^ (8 * k) / f) * 4096 + x0 / 2 ^ (8 * k) % f + cf
        (s.pos.toNat + k ≤ s.cfg.payloadBytes → ∃ t, exec (.ransEnc y) s = .next t
            ∧ (1 ≤ f → v < 2 ^ 32 → t.ransX.toNat = v)
            ∧ t.pos.toNat = s.pos.toNat + k
            ∧ (∀ j < k, tableGet t.mem.pay (s.pos.toNat + j) = some (BitVec.ofNat 8 (x0 / 2 ^ (8 * j))))
            ∧ (∀ a, a < s.pos.toNat ∨ s.pos.toNat + k ≤ a → tableGet t.mem.pay a = tableGet s.mem.pay a)
            ∧ t = { s with mem := { s.mem with pay := t.mem.pay }, pos := t.pos, ransX := t.ransX,
                           ransCnt := s.ransCnt + 1 })
          ∧ (s.cfg.payloadBytes < s.pos.toNat + k → exec (.ransEnc y) s = .next { s with
              fault := some { code := .bufOverflow, info := s.pos.setWidth 32, cmd := 0x41000#20 ++ y } }))
      ∧ (s.rmode ≠ .enc → exec (.ransEnc y) s = .next { s with
          fault := some { code := .ransState, info := if s.rmode = .idle then 0 else 2, cmd := 0x41000#20 ++ y } })
      ∧ (s.rmode = .enc → s.modelValid = false → exec (.ransEnc y) s = .next { s with
          fault := some { code := .noModel, info := 0, cmd := 0x41000#20 ++ y } })

/-- R287: RANS_ENC_FLUSH in ENC mode completes when 4 bytes fit: the bytes of X, low byte first, at POS to POS + 3, POS
moved by 4, IDLE, nothing else; else BUF_OVERFLOW, and RANS_STATE outside ENC. -/
def Obligations.RansEncFlushAppendsTheState : Prop :=
  ∀ s : State, s.cfg.legal = true →
    (s.rmode = .enc → s.pos.toNat + 4 ≤ s.cfg.payloadBytes → ∃ t, exec .ransEncFlush s = .next t
        ∧ t.pos.toNat = s.pos.toNat + 4
        ∧ (∀ j < 4, tableGet t.mem.pay (s.pos.toNat + j) = some (BitVec.ofNat 8 (s.ransX.toNat / 2 ^ (8 * j))))
        ∧ (∀ a, a < s.pos.toNat ∨ s.pos.toNat + 4 ≤ a → tableGet t.mem.pay a = tableGet s.mem.pay a)
        ∧ t = { s with mem := { s.mem with pay := t.mem.pay }, pos := t.pos, rmode := .idle })
      ∧ (s.rmode = .enc → s.cfg.payloadBytes < s.pos.toNat + 4 → exec .ransEncFlush s = .next { s with
          fault := some { code := .bufOverflow, info := s.pos.setWidth 32, cmd := 0x42000000#32 } })
      ∧ (s.rmode ≠ .enc → exec .ransEncFlush s = .next { s with
          fault := some { code := .ransState, info := if s.rmode = .idle then 0 else 2, cmd := 0x42000000#32 } })

/-- R290: RANS_DEC_INIT completes in every mode when POS >= 4: X is the last 4 bytes, low byte first, POS moved back by
4, DEC, RANS_CNT = 0, nothing else; else RANS_UNDERFLOW. An unwritten byte is a free value. -/
def Obligations.RansDecInitReadsTheTail : Prop :=
  ∀ s : State,
    (4 ≤ s.pos.toNat → ∃ t, exec .ransDecInit s = .next t
        ∧ t.ransX.toNat = (readPay s (s.pos.toNat - 4)).toNat + (readPay s (s.pos.toNat - 3)).toNat * 2 ^ 8
            + (readPay s (s.pos.toNat - 2)).toNat * 2 ^ 16 + (readPay s (s.pos.toNat - 1)).toNat * 2 ^ 24
        ∧ t.pos.toNat = s.pos.toNat - 4
        ∧ t = { s with ransX := t.ransX, pos := t.pos, rmode := .dec, ransCnt := 0 })
      ∧ (s.pos.toNat < 4 → exec .ransDecInit s = .next { s with
          fault := some { code := .ransUnderflow, info := s.pos.setWidth 32, cmd := 0x48000000#32 } })

/-- R288, R289, R291: RANS_DEC in DEC mode with MODEL_VALID = 1: the slot is X mod 4096, the symbol its LUT entry, and from
the integer x' = f * (X div 4096) + slot - cf the least number k of bytes popped from POS - 1 down that bring it to LOW
gives the new X; it completes with the symbol in RESULT. When all POS bytes do not, it faults RANS_UNDERFLOW and consumes
nothing. Its mode faults come first. An unwritten FREQ entry or byte is a draw (R68, log entry 5); a state above 32 bits,
which in a run only a drawn f gives, leaves X a free value, the model's choice of log entry 7. -/
def Obligations.RansDecPopsAndUpdates : Prop :=
  ∀ s : State, s.cfg.legal = true → s.pos.toNat ≤ s.cfg.payloadBytes →
    let slot := s.ransX.toNat % 4096; let y := readLut s slot
    let f := (readFreq s y.toNat).toNat; let cf := (readCum s y.toNat).toNat
    let start : Int := ((f * (s.ransX.toNat / 4096) : Nat) : Int) + ((slot : Int) - (cf : Int))
    let folded (k : Nat) : Int := (List.range k).foldl
      (fun x j => x * 256 + ((readPay s (s.pos.toNat - 1 - j)).toNat : Int)) start
    (s.rmode = .dec → s.modelValid = true →
        (∀ k ≤ s.pos.toNat, 2 ^ s.cfg.ransB ≤ folded k → (∀ j < k, folded j < 2 ^ s.cfg.ransB) →
          ∃ t, exec .ransDec s = .next t ∧ (folded k < 2 ^ 32 → (t.ransX.toNat : Int) = folded k)
            ∧ t.pos.toNat = s.pos.toNat - k
            ∧ t = { s with ransX := t.ransX, pos := t.pos, result := y.setWidth 32, ransCnt := s.ransCnt + 1 })
          ∧ ((∀ j ≤ s.pos.toNat, folded j < 2 ^ s.cfg.ransB) → exec .ransDec s = .next { s with
              fault := some { code := .ransUnderflow, info := s.pos.setWidth 32, cmd := 0x49000000#32 } }))
      ∧ (s.rmode ≠ .dec → exec .ransDec s = .next { s with
          fault := some { code := .ransState, info := if s.rmode = .idle then 0 else 1, cmd := 0x49000000#32 } })
      ∧ (s.rmode = .dec → s.modelValid = false → exec .ransDec s = .next { s with
          fault := some { code := .noModel, info := 0, cmd := 0x49000000#32 } })

/-- R286: from a state of the interval, for any symbol of any model, the renormalised state, the number of bytes and the
new state are in the bounds of (a), (b), (c), and no value exceeds 32 bits (d). -/
def Obligations.EncoderStaysInItsInterval : Prop :=
  ∀ (c : Params) (x f cf : Nat), c.legal = true → 2 ^ c.ransB ≤ x → x < 2 ^ (c.ransB + 8) → 1 ≤ f → cf + f ≤ 4096 →
    let r := encRenorm (c.xmax f) maxShifts x
    f * 2 ^ (c.ransB - 12) ≤ r.1 ∧ r.1 < c.xmax f ∧ r.2.length ≤ 2
      ∧ 2 ^ c.ransB ≤ encStep r.1 f cf ∧ encStep r.1 f cf < 2 ^ (c.ransB + 8)
      ∧ c.ransB + 8 ≤ 32 ∧ (r.1 / f) * 4096 < 2 ^ 32

/-- R292: one decode step undoes one encode step, for any symbol of any model: the slot falls in the symbol's range, the
state before EncStep comes back, and the bytes are popped in reverse order down to the stack pointer before. -/
def Obligations.DecodeStepInvertsEncodeStep : Prop :=
  ∀ (c : Params) (x f cf p : Nat) (pay : Nat → Byte), c.legal = true → 2 ^ c.ransB ≤ x → x < 2 ^ (c.ransB + 8) →
    1 ≤ f → cf + f ≤ 4096 →
    let r := encRenorm (c.xmax f) maxShifts x
    let x' := encStep r.1 f cf
    (∀ j, ∀ b, r.2[j]? = some b → pay (p + j) = b) →
    cf ≤ x' % 4096 ∧ x' % 4096 < cf + f ∧ decStep x' f cf (x' % 4096) = (r.1 : Int)
      ∧ decRenorm c.low pay (p + r.2.length) (r.1 : Int) = some ((x : Int), p)

/-- R294, R295: with a valid model and a payload that fits, encoding any symbols last first, flushing, and decoding gives
the symbols back, ends at X = LOW and POS = 0, and the payload has 4 + n + floor(n / 2) bytes. The symbols' FREQ entries
are written: over one that a build drew, RANS_ENC and RANS_DEC draw its frequency anew (R68). -/
def Obligations.RansRoundTrip : Prop :=
  ∀ (s : State) (syms : List Sym), Inv s → s.fault = none → s.modelValid = true →
    (∀ y ∈ syms, tableGet s.mem.freq y.toNat ≠ none) → let n := syms.length
    4 + n + n / 2 ≤ s.cfg.payloadBytes →
    ∃ s1 s2 s3 s4 out s5, exec .ransEncInit s = .next s1
      ∧ (∃ enc, execEach .ransEnc syms.reverse s1 = some (enc, s2))
      ∧ exec .ransEncFlush s2 = .next s3 ∧ s3.pos.toNat = 4 + n + n / 2
      ∧ exec .ransDecInit s3 = .next s4
      ∧ execEach (fun _ : Nat => .ransDec) (List.range n) s4 = some (out, s5)
      ∧ out.map (fun x : Word => x.setWidth 12) = syms
      ∧ s5.ransX.toNat = 2 ^ s.cfg.ransB ∧ s5.pos = 0 ∧ s5.ransCnt = BitVec.ofNat 32 n

/-! ## Frames -/

/-- R166, R167, R168, R183, R223, R226, R284, R290, R291: the control commands, PRED_INIT, SYM_INIT, SYM_DEC,
RANS_ENC_INIT, RANS_DEC_INIT and RANS_DEC keep every table entry, the instance and the port's fields; NOP keeps every
register too, and CLR_FAULT every register but the fault record. -/
def Obligations.CommandsThatStoreNothing : Prop :=
  ∀ (i : Instr) (s t : State), exec i s = .next t →
    i = .nop ∨ i = .clrFault ∨ i = .softReset ∨ i = .predInit ∨ i = .symInit ∨ (∃ y, i = .symDec y)
      ∨ i = .ransEncInit ∨ i = .ransDecInit ∨ i = .ransDec →
    t.mem = s.mem ∧ SamePort s t ∧ (i = .nop → t = s) ∧ (i = .clrFault → t = { s with fault := none })

/-- R183, R188, R189: what the predictor commands leave unchanged: everything of the symbolizer, the model and the coder,
the host's configuration registers, RESULT (PRED_INIT), and every table entry but LB[CH][COL] and CP[CH]; PRED_RES and
PRED_REC also keep the latched frame. -/
def Obligations.PredictorCommandsFrame : Prop :=
  ∀ (i : Instr) (s t : State) (v : Half), exec i s = .next t → i = .predInit ∨ i = .predRes v ∨ i = .predRec v →
    SameFrameConfig s t ∧ SameEscapes s t ∧ SameCoder s t ∧ SamePort s t ∧ t.modelValid = s.modelValid
      ∧ t.mem.freq = s.mem.freq ∧ t.mem.cum = s.mem.cum ∧ t.mem.lut = s.mem.lut ∧ t.mem.esc = s.mem.esc
      ∧ t.mem.pay = s.mem.pay
      ∧ (∀ a, a ≠ lineIndex s.ch s.col.toNat → tableGet t.mem.lb a = tableGet s.mem.lb a)
      ∧ (∀ a, a ≠ s.ch.toNat → tableGet t.mem.cp a = tableGet s.mem.cp a)
      ∧ (i = .predInit → t.result = s.result)
      ∧ (i ≠ .predInit → t.fw = s.fw ∧ t.fh = s.fh ∧ t.fc = s.fc ∧ t.fd = s.fd)
      ∧ (t.fault = s.fault ∨ t = { s with fault := t.fault })

/-- R223, R224, R226: what the symbolizer commands leave unchanged: everything of the predictor, the model and the coder,
and every table entry but ESC[ESC_LEN] (SYM_ENC). -/
def Obligations.SymbolizerCommandsFrame : Prop :=
  ∀ (i : Instr) (s t : State) (v : Half) (y : Sym), exec i s = .next t →
    i = .symInit ∨ i = .symEnc v ∨ i = .symDec y →
    SamePredictor s t ∧ SameFrameConfig s t ∧ SameCoder s t ∧ SamePort s t ∧ t.modelValid = s.modelValid
      ∧ t.mem = { s.mem with esc := t.mem.esc }
      ∧ (∀ a, a ≠ s.escLen.toNat → tableGet t.mem.esc a = tableGet s.mem.esc a)
      ∧ (i = .symInit → t.result = s.result) ∧ (i = .symEnc v → t.escRd = s.escRd)
      ∧ (i = .symDec y → t.escLen = s.escLen)
      ∧ (t.fault = s.fault ∨ t = { s with fault := t.fault })

/-- R251, R284, R285, R287, R290, R291: what MODEL_BUILD and the coder commands leave unchanged: everything of the
predictor and the symbolizer; MODEL_BUILD also the coder's registers and FREQ, the coder commands MODEL_VALID and the
model's tables, and RESULT but for RANS_DEC. For a RANS_ENC over a drawn frequency of 0 this is the model's choice (log
entry 7). -/
def Obligations.ModelAndCoderCommandsFrame : Prop :=
  ∀ (i : Instr) (s t : State) (y : Sym), exec i s = .next t →
    i = .modelBuild ∨ i = .ransEncInit ∨ i = .ransEnc y ∨ i = .ransEncFlush ∨ i = .ransDecInit ∨ i = .ransDec →
    SamePredictor s t ∧ SameFrameConfig s t ∧ SameEscapes s t ∧ SamePort s t
      ∧ t.mem.freq = s.mem.freq ∧ t.mem.esc = s.mem.esc ∧ t.mem.lb = s.mem.lb ∧ t.mem.cp = s.mem.cp
      ∧ (i = .modelBuild → SameCoder s t ∧ t.mem.pay = s.mem.pay)
      ∧ (i ≠ .modelBuild → t.modelValid = s.modelValid ∧ t.mem.cum = s.mem.cum ∧ t.mem.lut = s.mem.lut)
      ∧ (i ≠ .ransDec → t.result = s.result)
      ∧ (t.fault = s.fault ∨ t = { s with fault := t.fault })

/-! ## Host software beside the block -/

/-- R344: loading a saved record gives the record back, for every record the loader accepts (R342). -/
def Obligations.ContainerRoundTrip : Prop :=
  ∀ (c : Params) (r : Record), c.legal = true → r.acceptable c = true → loadRecord c (saveRecord r) = some r

/-- R266: for every symbol sequence the reference builder ends with the table of R253. -/
def Obligations.ReferenceBuilderEndsAllOnes : Prop :=
  ∀ syms : List Sym, buildFreqs syms = List.replicate 4096 1
end

