-- ==== Sys2Proof/Laws/Memory.lean ====
section
/-! SUPPORT. The tables: reading what was written, and the canonical form, which every memory operation keeps. -/

namespace Sys2Proof.Machine

variable {w : Nat}

@[simp] theorem tableGet_nil (i : Nat) : tableGet ([] : Table w) i = none := rfl

/-- Reading the entry just written gives the value written. -/
@[simp] theorem tableGet_tableSet_self (t : Table w) (i : Nat) (v : BitVec w) :
    tableGet (tableSet t i v) i = some v := by
  induction t with
  | nil => simp [tableSet, tableGet]
  | cons e t ih =>
    obtain ⟨k, u⟩ := e
    simp only [tableSet]
    split
    · simp [tableGet]
    · split
      · simp [tableGet]
      · simp only [tableGet]
        rw [if_neg (by omega)]
        exact ih

/-- A write leaves every other entry alone. -/
theorem tableGet_tableSet_of_ne (t : Table w) {i j : Nat} (v : BitVec w) (h : j ≠ i) :
    tableGet (tableSet t i v) j = tableGet t j := by
  induction t with
  | nil => simp [tableSet, tableGet, h.symm]
  | cons e t ih =>
    obtain ⟨k, u⟩ := e
    simp only [tableSet]
    split
    · simp [tableGet, h.symm]
    · split
      · subst_vars; simp [tableGet, h.symm]
      · simp only [tableGet, ih]

/-- Both laws in one. -/
theorem tableGet_tableSet (t : Table w) (i j : Nat) (v : BitVec w) :
    tableGet (tableSet t i v) j = if j = i then some v else tableGet t j := by
  split
  · subst_vars; simp
  · exact tableGet_tableSet_of_ne t v ‹_›

/-- The entries after a write: the new one, and old ones. -/
theorem mem_tableSet {t : Table w} {i : Nat} {v : BitVec w} {e : Nat × BitVec w} (h : e ∈ tableSet t i v) :
    e = (i, v) ∨ e ∈ t := by
  induction t with
  | nil => simpa [tableSet] using h
  | cons a t ih =>
    obtain ⟨k, u⟩ := a
    simp only [tableSet] at h
    split at h
    · simpa using h
    · split at h
      · rcases List.mem_cons.1 h with h | h
        · exact .inl h
        · exact .inr (List.mem_cons_of_mem _ h)
      · rcases List.mem_cons.1 h with h | h
        · exact .inr (by simp [h])
        · exact (ih h).imp_right (List.mem_cons_of_mem _)

/-- A write keeps the canonical form. -/
theorem tableSorted_tableSet {t : Table w} (h : tableSorted t) (i : Nat) (v : BitVec w) :
    tableSorted (tableSet t i v) := by
  induction t with
  | nil => simp [tableSet]
  | cons a t ih =>
    obtain ⟨k, u⟩ := a
    obtain ⟨hk, ht⟩ := List.pairwise_cons.1 h
    simp only [tableSet]
    split
    · rename_i hik
      refine List.pairwise_cons.2 ⟨fun e he => ?_, h⟩
      rcases List.mem_cons.1 he with rfl | he
      · exact hik
      · exact lt_trans hik (hk e he)
    · split
      · rename_i _ hik
        subst hik
        exact List.pairwise_cons.2 ⟨hk, ht⟩
      · rename_i h1 h2
        refine List.pairwise_cons.2 ⟨fun e he => ?_, ih ht⟩
        rcases mem_tableSet he with rfl | he
        · show k < i; omega
        · exact hk e he

/-- A bound on the indexes is kept by a write below it. -/
theorem tableBelow_tableSet {n : Nat} {t : Table w} (h : tableBelow n t) {i : Nat} (hi : i < n) (v : BitVec w) :
    tableBelow n (tableSet t i v) := by
  intro e he
  rcases mem_tableSet he with rfl | he
  · exact hi
  · exact h e he

/-- In canonical form two tables that read alike are equal: equal memories are equal data. -/
theorem table_ext {t u : Table w} (ht : tableSorted t) (hu : tableSorted u)
    (h : ∀ i, tableGet t i = tableGet u i) : t = u := by
  have below : ∀ {k : Nat} {t : Table w}, (∀ e ∈ t, k < e.1) → tableGet t k = none := by
    intro k t ht
    induction t with
    | nil => rfl
    | cons a t ih =>
      obtain ⟨j, v⟩ := a
      have hj : k < j := ht (j, v) (by simp)
      simp only [tableGet]
      rw [if_neg (by omega)]
      exact ih fun e he => ht e (by simp [he])
  induction t generalizing u with
  | nil =>
    cases u with
    | nil => rfl
    | cons b u => have := h b.1; simp [tableGet] at this
  | cons a t ih =>
    obtain ⟨k, v⟩ := a
    obtain ⟨hk, ht'⟩ := List.pairwise_cons.1 ht
    cases u with
    | nil => have := h k; simp [tableGet] at this
    | cons b u =>
      obtain ⟨j, x⟩ := b
      obtain ⟨hj, hu'⟩ := List.pairwise_cons.1 hu
      have hkj : k = j := by
        rcases Nat.lt_trichotomy k j with hlt | heq | hlt
        · have h1 := h k
          have h2 : tableGet ((j, x) :: u) k = none := below (by
            intro e he
            rcases List.mem_cons.1 he with rfl | he
            · exact hlt
            · exact lt_trans hlt (hj e he))
          rw [h2] at h1
          simp [tableGet] at h1
        · exact heq
        · have h1 := h j
          have h2 : tableGet ((k, v) :: t) j = none := below (by
            intro e he
            rcases List.mem_cons.1 he with rfl | he
            · exact hlt
            · exact lt_trans hlt (hk e he))
          rw [h2] at h1
          simp [tableGet] at h1
      subst hkj
      have hv := h k
      simp [tableGet] at hv
      subst hv
      congr 1
      refine ih ht' hu' fun i => ?_
      by_cases hi : i = k
      · subst hi
        rw [below hk, below hj]
      · have := h i
        simpa [tableGet, Ne.symm hi] using this

/-- Bytes stored from index i on: below i nothing changes. -/
theorem tableGet_storeBytes_below (bs : List Byte) (i : Nat) (t : Table 8) {a : Nat} (h : a < i) :
    tableGet (storeBytes bs i t) a = tableGet t a := by
  induction bs generalizing i t with
  | nil => rfl
  | cons b bs ih =>
    rw [storeBytes, ih (i + 1) _ (by omega), tableGet_tableSet_of_ne _ _ (by omega)]

/-- Bytes stored from index i on: past the last one nothing changes. -/
theorem tableGet_storeBytes_above (bs : List Byte) (i : Nat) (t : Table 8) {a : Nat} (h : i + bs.length ≤ a) :
    tableGet (storeBytes bs i t) a = tableGet t a := by
  induction bs generalizing i t with
  | nil => rfl
  | cons b bs ih =>
    simp only [List.length_cons] at h
    rw [storeBytes, ih (i + 1) _ (by omega), tableGet_tableSet_of_ne _ _ (by omega)]

/-- Bytes stored from index i on: byte j lies at i + j. -/
theorem tableGet_storeBytes (bs : List Byte) (i : Nat) (t : Table 8) {j : Nat} (h : j < bs.length) :
    tableGet (storeBytes bs i t) (i + j) = some bs[j] := by
  induction bs generalizing i t j with
  | nil => simp at h
  | cons b bs ih =>
    cases j with
    | zero => simp [storeBytes, tableGet_storeBytes_below bs (i + 1) _ (Nat.lt_succ_self i)]
    | succ j =>
      have := ih (i + 1) (tableSet t i b) (j := j) (by simpa using h)
      simpa [storeBytes, Nat.add_assoc, Nat.add_comm 1 j] using this

theorem tableSorted_storeBytes (bs : List Byte) (i : Nat) {t : Table 8} (h : tableSorted t) :
    tableSorted (storeBytes bs i t) := by
  induction bs generalizing i t with
  | nil => exact h
  | cons b bs ih => exact ih (i + 1) (tableSorted_tableSet h i b)

theorem tableBelow_storeBytes {n : Nat} (bs : List Byte) (i : Nat) {t : Table 8} (h : tableBelow n t)
    (hn : i + bs.length ≤ n) : tableBelow n (storeBytes bs i t) := by
  induction bs generalizing i t with
  | nil => exact h
  | cons b bs ih =>
    simp only [List.length_cons] at hn
    exact ih (i + 1) (tableBelow_tableSet h (by omega) b) (by omega)

/-- The entries buildCum makes have indexes from s on. -/
theorem mem_buildCum {fs : List Nat} {s acc : Nat} {e : Nat × Sym} (h : e ∈ buildCum fs s acc) :
    s ≤ e.1 ∧ e.1 < s + fs.length := by
  induction fs generalizing s acc with
  | nil => simp [buildCum] at h
  | cons f fs ih =>
    rcases List.mem_cons.1 h with rfl | h
    · simp
    · have := ih h
      simp only [List.length_cons]
      omega

theorem tableSorted_buildCum (fs : List Nat) (s acc : Nat) : tableSorted (buildCum fs s acc) := by
  induction fs generalizing s acc with
  | nil => simp [buildCum]
  | cons f fs ih =>
    refine List.pairwise_cons.2 ⟨fun e he => ?_, ih (s + 1) (acc + f)⟩
    have := mem_buildCum he
    show s < e.1
    omega

/-- The entries buildLut makes have slots from acc on, below the sum of the frequencies. -/
theorem mem_buildLut {fs : List Nat} {s acc : Nat} {e : Nat × Sym} (h : e ∈ buildLut fs s acc) :
    acc ≤ e.1 ∧ e.1 < acc + fs.sum := by
  induction fs generalizing s acc with
  | nil => simp [buildLut] at h
  | cons f fs ih =>
    rcases List.mem_append.1 h with h | h
    · obtain ⟨k, hk, rfl⟩ := List.mem_map.1 h
      have := List.mem_range.1 hk
      simp only [List.sum_cons]
      omega
    · have := ih h
      simp only [List.sum_cons]
      omega

theorem tableSorted_buildLut (fs : List Nat) (s acc : Nat) : tableSorted (buildLut fs s acc) := by
  induction fs generalizing s acc with
  | nil => simp [buildLut]
  | cons f fs ih =>
    refine List.pairwise_append.2 ⟨?_, ih (s + 1) (acc + f), fun a ha b hb => ?_⟩
    · rw [List.pairwise_map]
      exact List.pairwise_lt_range.imp fun h => by simpa using h
    · obtain ⟨k, hk, rfl⟩ := List.mem_map.1 ha
      have h1 := List.mem_range.1 hk
      have h2 := mem_buildLut hb
      show acc + k < b.1
      omega

/-! ## The canonical form of all tables -/

theorem unwritten_wf : Memory.unwritten.wf := by
  refine ⟨?_, ?_, ?_, ?_, ?_, ?_, ?_⟩ <;> exact List.Pairwise.nil

theorem reset_mem_wf (c : Params) : (State.resetWith c).mem.wf := unwritten_wf

theorem writeFreq_wf {s : State} (h : s.mem.wf) (i : Nat) (v : Half) : (writeFreq i v s).mem.wf := by
  obtain ⟨h1, h2⟩ := h
  exact ⟨tableSorted_tableSet h1 i v, h2⟩

theorem writeEsc_wf {s : State} (h : s.mem.wf) (i : Nat) (v : Half) : (writeEsc i v s).mem.wf := by
  obtain ⟨h1, h2, h3, h4, h5⟩ := h
  exact ⟨h1, h2, h3, tableSorted_tableSet h4 i v, h5⟩

theorem writePay_wf {s : State} (h : s.mem.wf) (i : Nat) (v : Byte) : (writePay i v s).mem.wf := by
  obtain ⟨h1, h2, h3, h4, h5, h6⟩ := h
  exact ⟨h1, h2, h3, h4, tableSorted_tableSet h5 i v, h6⟩

theorem pushBytes_wf {s : State} (h : s.mem.wf) (bs : List Byte) : (pushBytes bs s).mem.wf := by
  obtain ⟨h1, h2, h3, h4, h5, h6⟩ := h
  exact ⟨h1, h2, h3, h4, tableSorted_storeBytes bs _ h5, h6⟩

theorem appendEscape_wf {s : State} (h : s.mem.wf) (r : Half) : (appendEscape r s).mem.wf :=
  writeEsc_wf h s.escLen.toNat r

theorem storeSample_wf {s : State} (h : s.mem.wf) (v : Int) : (storeSample v s).mem.wf := by
  obtain ⟨h1, h2, h3, h4, h5, h6, h7⟩ := h
  have hl := tableSorted_tableSet h6 (lineIndex s.ch s.col.toNat) (u16 v)
  have hc := tableSorted_tableSet h7 s.ch.toNat (readLine s s.ch s.col.toNat)
  simp only [storeSample]
  exact ⟨h1, h2, h3, h4, h5, hl, hc⟩

theorem buildTables_wf {s : State} (h : s.mem.wf) : (buildTables s).mem.wf := by
  obtain ⟨h1, _, _, h4⟩ := h
  unfold buildTables
  generalize allFreqs s = fs
  exact ⟨h1, tableSorted_buildCum fs 0 0, tableSorted_buildLut fs 0 0, h4⟩

end Sys2Proof.Machine
end

