-- ==== Sys2Proof/Laws/State.lean ====
section
/-! SUPPORT. The fields of the state after each shared update, true by rfl, so that no proof unfolds a record update. -/

namespace Sys2Proof.Machine

/-! ## raise -/

@[simp] theorem raise_cfg (w : Word) (c : FaultCode) (info : Word) (s : State) : (raise w c info s).cfg = s.cfg := rfl
@[simp] theorem raise_fault (w : Word) (c : FaultCode) (info : Word) (s : State) : (raise w c info s).fault = some { code := c, info := info, cmd := w } := rfl
@[simp] theorem raise_modelValid (w : Word) (c : FaultCode) (info : Word) (s : State) : (raise w c info s).modelValid = s.modelValid := rfl
@[simp] theorem raise_result (w : Word) (c : FaultCode) (info : Word) (s : State) : (raise w c info s).result = s.result := rfl
@[simp] theorem raise_predSize (w : Word) (c : FaultCode) (info : Word) (s : State) : (raise w c info s).predSize = s.predSize := rfl
@[simp] theorem raise_predChannels (w : Word) (c : FaultCode) (info : Word) (s : State) : (raise w c info s).predChannels = s.predChannels := rfl
@[simp] theorem raise_predDomain (w : Word) (c : FaultCode) (info : Word) (s : State) : (raise w c info s).predDomain = s.predDomain := rfl
@[simp] theorem raise_row (w : Word) (c : FaultCode) (info : Word) (s : State) : (raise w c info s).row = s.row := rfl
@[simp] theorem raise_col (w : Word) (c : FaultCode) (info : Word) (s : State) : (raise w c info s).col = s.col := rfl
@[simp] theorem raise_ch (w : Word) (c : FaultCode) (info : Word) (s : State) : (raise w c info s).ch = s.ch := rfl
@[simp] theorem raise_fixedCnt (w : Word) (c : FaultCode) (info : Word) (s : State) : (raise w c info s).fixedCnt = s.fixedCnt := rfl
@[simp] theorem raise_escLen (w : Word) (c : FaultCode) (info : Word) (s : State) : (raise w c info s).escLen = s.escLen := rfl
@[simp] theorem raise_escRd (w : Word) (c : FaultCode) (info : Word) (s : State) : (raise w c info s).escRd = s.escRd := rfl
@[simp] theorem raise_ransX (w : Word) (c : FaultCode) (info : Word) (s : State) : (raise w c info s).ransX = s.ransX := rfl
@[simp] theorem raise_pos (w : Word) (c : FaultCode) (info : Word) (s : State) : (raise w c info s).pos = s.pos := rfl
@[simp] theorem raise_ransCnt (w : Word) (c : FaultCode) (info : Word) (s : State) : (raise w c info s).ransCnt = s.ransCnt := rfl
@[simp] theorem raise_fw (w : Word) (c : FaultCode) (info : Word) (s : State) : (raise w c info s).fw = s.fw := rfl
@[simp] theorem raise_fh (w : Word) (c : FaultCode) (info : Word) (s : State) : (raise w c info s).fh = s.fh := rfl
@[simp] theorem raise_fc (w : Word) (c : FaultCode) (info : Word) (s : State) : (raise w c info s).fc = s.fc := rfl
@[simp] theorem raise_fd (w : Word) (c : FaultCode) (info : Word) (s : State) : (raise w c info s).fd = s.fd := rfl
@[simp] theorem raise_pstate (w : Word) (c : FaultCode) (info : Word) (s : State) : (raise w c info s).pstate = s.pstate := rfl
@[simp] theorem raise_rmode (w : Word) (c : FaultCode) (info : Word) (s : State) : (raise w c info s).rmode = s.rmode := rfl
@[simp] theorem raise_mem (w : Word) (c : FaultCode) (info : Word) (s : State) : (raise w c info s).mem = s.mem := rfl
@[simp] theorem raise_pending (w : Word) (c : FaultCode) (info : Word) (s : State) : (raise w c info s).pending = s.pending := rfl
@[simp] theorem raise_reply (w : Word) (c : FaultCode) (info : Word) (s : State) : (raise w c info s).reply = s.reply := rfl
@[simp] theorem raise_tick (w : Word) (c : FaultCode) (info : Word) (s : State) : (raise w c info s).tick = s.tick := rfl

/-! ## clearFault -/

@[simp] theorem clearFault_cfg (s : State) : (clearFault s).cfg = s.cfg := rfl
@[simp] theorem clearFault_fault (s : State) : (clearFault s).fault = none := rfl
@[simp] theorem clearFault_modelValid (s : State) : (clearFault s).modelValid = s.modelValid := rfl
@[simp] theorem clearFault_result (s : State) : (clearFault s).result = s.result := rfl
@[simp] theorem clearFault_predSize (s : State) : (clearFault s).predSize = s.predSize := rfl
@[simp] theorem clearFault_predChannels (s : State) : (clearFault s).predChannels = s.predChannels := rfl
@[simp] theorem clearFault_predDomain (s : State) : (clearFault s).predDomain = s.predDomain := rfl
@[simp] theorem clearFault_row (s : State) : (clearFault s).row = s.row := rfl
@[simp] theorem clearFault_col (s : State) : (clearFault s).col = s.col := rfl
@[simp] theorem clearFault_ch (s : State) : (clearFault s).ch = s.ch := rfl
@[simp] theorem clearFault_fixedCnt (s : State) : (clearFault s).fixedCnt = s.fixedCnt := rfl
@[simp] theorem clearFault_escLen (s : State) : (clearFault s).escLen = s.escLen := rfl
@[simp] theorem clearFault_escRd (s : State) : (clearFault s).escRd = s.escRd := rfl
@[simp] theorem clearFault_ransX (s : State) : (clearFault s).ransX = s.ransX := rfl
@[simp] theorem clearFault_pos (s : State) : (clearFault s).pos = s.pos := rfl
@[simp] theorem clearFault_ransCnt (s : State) : (clearFault s).ransCnt = s.ransCnt := rfl
@[simp] theorem clearFault_fw (s : State) : (clearFault s).fw = s.fw := rfl
@[simp] theorem clearFault_fh (s : State) : (clearFault s).fh = s.fh := rfl
@[simp] theorem clearFault_fc (s : State) : (clearFault s).fc = s.fc := rfl
@[simp] theorem clearFault_fd (s : State) : (clearFault s).fd = s.fd := rfl
@[simp] theorem clearFault_pstate (s : State) : (clearFault s).pstate = s.pstate := rfl
@[simp] theorem clearFault_rmode (s : State) : (clearFault s).rmode = s.rmode := rfl
@[simp] theorem clearFault_mem (s : State) : (clearFault s).mem = s.mem := rfl
@[simp] theorem clearFault_pending (s : State) : (clearFault s).pending = s.pending := rfl
@[simp] theorem clearFault_reply (s : State) : (clearFault s).reply = s.reply := rfl
@[simp] theorem clearFault_tick (s : State) : (clearFault s).tick = s.tick := rfl

/-! ## softReset -/

@[simp] theorem softReset_cfg (s : State) : (softReset s).cfg = s.cfg := rfl
@[simp] theorem softReset_fault (s : State) : (softReset s).fault = none := rfl
@[simp] theorem softReset_modelValid (s : State) : (softReset s).modelValid = false := rfl
@[simp] theorem softReset_result (s : State) : (softReset s).result = 0 := rfl
@[simp] theorem softReset_predSize (s : State) : (softReset s).predSize = 0 := rfl
@[simp] theorem softReset_predChannels (s : State) : (softReset s).predChannels = 0 := rfl
@[simp] theorem softReset_predDomain (s : State) : (softReset s).predDomain = 0 := rfl
@[simp] theorem softReset_row (s : State) : (softReset s).row = 0 := rfl
@[simp] theorem softReset_col (s : State) : (softReset s).col = 0 := rfl
@[simp] theorem softReset_ch (s : State) : (softReset s).ch = 0 := rfl
@[simp] theorem softReset_fixedCnt (s : State) : (softReset s).fixedCnt = 0 := rfl
@[simp] theorem softReset_escLen (s : State) : (softReset s).escLen = 0 := rfl
@[simp] theorem softReset_escRd (s : State) : (softReset s).escRd = 0 := rfl
@[simp] theorem softReset_ransX (s : State) : (softReset s).ransX = 0 := rfl
@[simp] theorem softReset_pos (s : State) : (softReset s).pos = 0 := rfl
@[simp] theorem softReset_ransCnt (s : State) : (softReset s).ransCnt = 0 := rfl
@[simp] theorem softReset_fw (s : State) : (softReset s).fw = 0 := rfl
@[simp] theorem softReset_fh (s : State) : (softReset s).fh = 0 := rfl
@[simp] theorem softReset_fc (s : State) : (softReset s).fc = 0 := rfl
@[simp] theorem softReset_fd (s : State) : (softReset s).fd = 0 := rfl
@[simp] theorem softReset_pstate (s : State) : (softReset s).pstate = .off := rfl
@[simp] theorem softReset_rmode (s : State) : (softReset s).rmode = .idle := rfl
@[simp] theorem softReset_mem (s : State) : (softReset s).mem = s.mem := rfl
@[simp] theorem softReset_pending (s : State) : (softReset s).pending = s.pending := rfl
@[simp] theorem softReset_reply (s : State) : (softReset s).reply = s.reply := rfl
@[simp] theorem softReset_tick (s : State) : (softReset s).tick = s.tick := rfl

/-! ## hardReset -/

@[simp] theorem hardReset_cfg (s : State) : (hardReset s).cfg = s.cfg := rfl
@[simp] theorem hardReset_fault (s : State) : (hardReset s).fault = none := rfl
@[simp] theorem hardReset_modelValid (s : State) : (hardReset s).modelValid = false := rfl
@[simp] theorem hardReset_result (s : State) : (hardReset s).result = 0 := rfl
@[simp] theorem hardReset_predSize (s : State) : (hardReset s).predSize = 0 := rfl
@[simp] theorem hardReset_predChannels (s : State) : (hardReset s).predChannels = 0 := rfl
@[simp] theorem hardReset_predDomain (s : State) : (hardReset s).predDomain = 0 := rfl
@[simp] theorem hardReset_row (s : State) : (hardReset s).row = 0 := rfl
@[simp] theorem hardReset_col (s : State) : (hardReset s).col = 0 := rfl
@[simp] theorem hardReset_ch (s : State) : (hardReset s).ch = 0 := rfl
@[simp] theorem hardReset_fixedCnt (s : State) : (hardReset s).fixedCnt = 0 := rfl
@[simp] theorem hardReset_escLen (s : State) : (hardReset s).escLen = 0 := rfl
@[simp] theorem hardReset_escRd (s : State) : (hardReset s).escRd = 0 := rfl
@[simp] theorem hardReset_ransX (s : State) : (hardReset s).ransX = 0 := rfl
@[simp] theorem hardReset_pos (s : State) : (hardReset s).pos = 0 := rfl
@[simp] theorem hardReset_ransCnt (s : State) : (hardReset s).ransCnt = 0 := rfl
@[simp] theorem hardReset_fw (s : State) : (hardReset s).fw = 0 := rfl
@[simp] theorem hardReset_fh (s : State) : (hardReset s).fh = 0 := rfl
@[simp] theorem hardReset_fc (s : State) : (hardReset s).fc = 0 := rfl
@[simp] theorem hardReset_fd (s : State) : (hardReset s).fd = 0 := rfl
@[simp] theorem hardReset_pstate (s : State) : (hardReset s).pstate = .off := rfl
@[simp] theorem hardReset_rmode (s : State) : (hardReset s).rmode = .idle := rfl
@[simp] theorem hardReset_mem (s : State) : (hardReset s).mem = .unwritten := rfl
@[simp] theorem hardReset_pending (s : State) : (hardReset s).pending = s.pending := rfl
@[simp] theorem hardReset_reply (s : State) : (hardReset s).reply = .idle := rfl
@[simp] theorem hardReset_tick (s : State) : (hardReset s).tick = s.tick := rfl

/-! ## resetWith -/

@[simp] theorem resetWith_cfg (c : Params) : (State.resetWith c).cfg = c := rfl
@[simp] theorem resetWith_fault (c : Params) : (State.resetWith c).fault = none := rfl
@[simp] theorem resetWith_modelValid (c : Params) : (State.resetWith c).modelValid = false := rfl
@[simp] theorem resetWith_result (c : Params) : (State.resetWith c).result = 0 := rfl
@[simp] theorem resetWith_predSize (c : Params) : (State.resetWith c).predSize = 0 := rfl
@[simp] theorem resetWith_predChannels (c : Params) : (State.resetWith c).predChannels = 0 := rfl
@[simp] theorem resetWith_predDomain (c : Params) : (State.resetWith c).predDomain = 0 := rfl
@[simp] theorem resetWith_row (c : Params) : (State.resetWith c).row = 0 := rfl
@[simp] theorem resetWith_col (c : Params) : (State.resetWith c).col = 0 := rfl
@[simp] theorem resetWith_ch (c : Params) : (State.resetWith c).ch = 0 := rfl
@[simp] theorem resetWith_fixedCnt (c : Params) : (State.resetWith c).fixedCnt = 0 := rfl
@[simp] theorem resetWith_escLen (c : Params) : (State.resetWith c).escLen = 0 := rfl
@[simp] theorem resetWith_escRd (c : Params) : (State.resetWith c).escRd = 0 := rfl
@[simp] theorem resetWith_ransX (c : Params) : (State.resetWith c).ransX = 0 := rfl
@[simp] theorem resetWith_pos (c : Params) : (State.resetWith c).pos = 0 := rfl
@[simp] theorem resetWith_ransCnt (c : Params) : (State.resetWith c).ransCnt = 0 := rfl
@[simp] theorem resetWith_fw (c : Params) : (State.resetWith c).fw = 0 := rfl
@[simp] theorem resetWith_fh (c : Params) : (State.resetWith c).fh = 0 := rfl
@[simp] theorem resetWith_fc (c : Params) : (State.resetWith c).fc = 0 := rfl
@[simp] theorem resetWith_fd (c : Params) : (State.resetWith c).fd = 0 := rfl
@[simp] theorem resetWith_pstate (c : Params) : (State.resetWith c).pstate = .off := rfl
@[simp] theorem resetWith_rmode (c : Params) : (State.resetWith c).rmode = .idle := rfl
@[simp] theorem resetWith_mem (c : Params) : (State.resetWith c).mem = .unwritten := rfl
@[simp] theorem resetWith_pending (c : Params) : (State.resetWith c).pending = [] := rfl
@[simp] theorem resetWith_reply (c : Params) : (State.resetWith c).reply = .idle := rfl
@[simp] theorem resetWith_tick (c : Params) : (State.resetWith c).tick = 0 := rfl

/-! ## writeFreq -/

@[simp] theorem writeFreq_cfg (i : Nat) (v : Half) (s : State) : (writeFreq i v s).cfg = s.cfg := rfl
@[simp] theorem writeFreq_fault (i : Nat) (v : Half) (s : State) : (writeFreq i v s).fault = s.fault := rfl
@[simp] theorem writeFreq_modelValid (i : Nat) (v : Half) (s : State) : (writeFreq i v s).modelValid = false := rfl
@[simp] theorem writeFreq_result (i : Nat) (v : Half) (s : State) : (writeFreq i v s).result = s.result := rfl
@[simp] theorem writeFreq_predSize (i : Nat) (v : Half) (s : State) : (writeFreq i v s).predSize = s.predSize := rfl
@[simp] theorem writeFreq_predChannels (i : Nat) (v : Half) (s : State) : (writeFreq i v s).predChannels = s.predChannels := rfl
@[simp] theorem writeFreq_predDomain (i : Nat) (v : Half) (s : State) : (writeFreq i v s).predDomain = s.predDomain := rfl
@[simp] theorem writeFreq_row (i : Nat) (v : Half) (s : State) : (writeFreq i v s).row = s.row := rfl
@[simp] theorem writeFreq_col (i : Nat) (v : Half) (s : State) : (writeFreq i v s).col = s.col := rfl
@[simp] theorem writeFreq_ch (i : Nat) (v : Half) (s : State) : (writeFreq i v s).ch = s.ch := rfl
@[simp] theorem writeFreq_fixedCnt (i : Nat) (v : Half) (s : State) : (writeFreq i v s).fixedCnt = s.fixedCnt := rfl
@[simp] theorem writeFreq_escLen (i : Nat) (v : Half) (s : State) : (writeFreq i v s).escLen = s.escLen := rfl
@[simp] theorem writeFreq_escRd (i : Nat) (v : Half) (s : State) : (writeFreq i v s).escRd = s.escRd := rfl
@[simp] theorem writeFreq_ransX (i : Nat) (v : Half) (s : State) : (writeFreq i v s).ransX = s.ransX := rfl
@[simp] theorem writeFreq_pos (i : Nat) (v : Half) (s : State) : (writeFreq i v s).pos = s.pos := rfl
@[simp] theorem writeFreq_ransCnt (i : Nat) (v : Half) (s : State) : (writeFreq i v s).ransCnt = s.ransCnt := rfl
@[simp] theorem writeFreq_fw (i : Nat) (v : Half) (s : State) : (writeFreq i v s).fw = s.fw := rfl
@[simp] theorem writeFreq_fh (i : Nat) (v : Half) (s : State) : (writeFreq i v s).fh = s.fh := rfl
@[simp] theorem writeFreq_fc (i : Nat) (v : Half) (s : State) : (writeFreq i v s).fc = s.fc := rfl
@[simp] theorem writeFreq_fd (i : Nat) (v : Half) (s : State) : (writeFreq i v s).fd = s.fd := rfl
@[simp] theorem writeFreq_pstate (i : Nat) (v : Half) (s : State) : (writeFreq i v s).pstate = s.pstate := rfl
@[simp] theorem writeFreq_rmode (i : Nat) (v : Half) (s : State) : (writeFreq i v s).rmode = s.rmode := rfl
@[simp] theorem writeFreq_mem (i : Nat) (v : Half) (s : State) : (writeFreq i v s).mem = { s.mem with freq := tableSet s.mem.freq i v } := rfl
@[simp] theorem writeFreq_pending (i : Nat) (v : Half) (s : State) : (writeFreq i v s).pending = s.pending := rfl
@[simp] theorem writeFreq_reply (i : Nat) (v : Half) (s : State) : (writeFreq i v s).reply = s.reply := rfl
@[simp] theorem writeFreq_tick (i : Nat) (v : Half) (s : State) : (writeFreq i v s).tick = s.tick := rfl

/-! ## writeEsc -/

@[simp] theorem writeEsc_cfg (i : Nat) (v : Half) (s : State) : (writeEsc i v s).cfg = s.cfg := rfl
@[simp] theorem writeEsc_fault (i : Nat) (v : Half) (s : State) : (writeEsc i v s).fault = s.fault := rfl
@[simp] theorem writeEsc_modelValid (i : Nat) (v : Half) (s : State) : (writeEsc i v s).modelValid = s.modelValid := rfl
@[simp] theorem writeEsc_result (i : Nat) (v : Half) (s : State) : (writeEsc i v s).result = s.result := rfl
@[simp] theorem writeEsc_predSize (i : Nat) (v : Half) (s : State) : (writeEsc i v s).predSize = s.predSize := rfl
@[simp] theorem writeEsc_predChannels (i : Nat) (v : Half) (s : State) : (writeEsc i v s).predChannels = s.predChannels := rfl
@[simp] theorem writeEsc_predDomain (i : Nat) (v : Half) (s : State) : (writeEsc i v s).predDomain = s.predDomain := rfl
@[simp] theorem writeEsc_row (i : Nat) (v : Half) (s : State) : (writeEsc i v s).row = s.row := rfl
@[simp] theorem writeEsc_col (i : Nat) (v : Half) (s : State) : (writeEsc i v s).col = s.col := rfl
@[simp] theorem writeEsc_ch (i : Nat) (v : Half) (s : State) : (writeEsc i v s).ch = s.ch := rfl
@[simp] theorem writeEsc_fixedCnt (i : Nat) (v : Half) (s : State) : (writeEsc i v s).fixedCnt = s.fixedCnt := rfl
@[simp] theorem writeEsc_escLen (i : Nat) (v : Half) (s : State) : (writeEsc i v s).escLen = s.escLen := rfl
@[simp] theorem writeEsc_escRd (i : Nat) (v : Half) (s : State) : (writeEsc i v s).escRd = s.escRd := rfl
@[simp] theorem writeEsc_ransX (i : Nat) (v : Half) (s : State) : (writeEsc i v s).ransX = s.ransX := rfl
@[simp] theorem writeEsc_pos (i : Nat) (v : Half) (s : State) : (writeEsc i v s).pos = s.pos := rfl
@[simp] theorem writeEsc_ransCnt (i : Nat) (v : Half) (s : State) : (writeEsc i v s).ransCnt = s.ransCnt := rfl
@[simp] theorem writeEsc_fw (i : Nat) (v : Half) (s : State) : (writeEsc i v s).fw = s.fw := rfl
@[simp] theorem writeEsc_fh (i : Nat) (v : Half) (s : State) : (writeEsc i v s).fh = s.fh := rfl
@[simp] theorem writeEsc_fc (i : Nat) (v : Half) (s : State) : (writeEsc i v s).fc = s.fc := rfl
@[simp] theorem writeEsc_fd (i : Nat) (v : Half) (s : State) : (writeEsc i v s).fd = s.fd := rfl
@[simp] theorem writeEsc_pstate (i : Nat) (v : Half) (s : State) : (writeEsc i v s).pstate = s.pstate := rfl
@[simp] theorem writeEsc_rmode (i : Nat) (v : Half) (s : State) : (writeEsc i v s).rmode = s.rmode := rfl
@[simp] theorem writeEsc_mem (i : Nat) (v : Half) (s : State) : (writeEsc i v s).mem = { s.mem with esc := tableSet s.mem.esc i v } := rfl
@[simp] theorem writeEsc_pending (i : Nat) (v : Half) (s : State) : (writeEsc i v s).pending = s.pending := rfl
@[simp] theorem writeEsc_reply (i : Nat) (v : Half) (s : State) : (writeEsc i v s).reply = s.reply := rfl
@[simp] theorem writeEsc_tick (i : Nat) (v : Half) (s : State) : (writeEsc i v s).tick = s.tick := rfl

/-! ## writePay -/

@[simp] theorem writePay_cfg (i : Nat) (v : Byte) (s : State) : (writePay i v s).cfg = s.cfg := rfl
@[simp] theorem writePay_fault (i : Nat) (v : Byte) (s : State) : (writePay i v s).fault = s.fault := rfl
@[simp] theorem writePay_modelValid (i : Nat) (v : Byte) (s : State) : (writePay i v s).modelValid = s.modelValid := rfl
@[simp] theorem writePay_result (i : Nat) (v : Byte) (s : State) : (writePay i v s).result = s.result := rfl
@[simp] theorem writePay_predSize (i : Nat) (v : Byte) (s : State) : (writePay i v s).predSize = s.predSize := rfl
@[simp] theorem writePay_predChannels (i : Nat) (v : Byte) (s : State) : (writePay i v s).predChannels = s.predChannels := rfl
@[simp] theorem writePay_predDomain (i : Nat) (v : Byte) (s : State) : (writePay i v s).predDomain = s.predDomain := rfl
@[simp] theorem writePay_row (i : Nat) (v : Byte) (s : State) : (writePay i v s).row = s.row := rfl
@[simp] theorem writePay_col (i : Nat) (v : Byte) (s : State) : (writePay i v s).col = s.col := rfl
@[simp] theorem writePay_ch (i : Nat) (v : Byte) (s : State) : (writePay i v s).ch = s.ch := rfl
@[simp] theorem writePay_fixedCnt (i : Nat) (v : Byte) (s : State) : (writePay i v s).fixedCnt = s.fixedCnt := rfl
@[simp] theorem writePay_escLen (i : Nat) (v : Byte) (s : State) : (writePay i v s).escLen = s.escLen := rfl
@[simp] theorem writePay_escRd (i : Nat) (v : Byte) (s : State) : (writePay i v s).escRd = s.escRd := rfl
@[simp] theorem writePay_ransX (i : Nat) (v : Byte) (s : State) : (writePay i v s).ransX = s.ransX := rfl
@[simp] theorem writePay_pos (i : Nat) (v : Byte) (s : State) : (writePay i v s).pos = s.pos := rfl
@[simp] theorem writePay_ransCnt (i : Nat) (v : Byte) (s : State) : (writePay i v s).ransCnt = s.ransCnt := rfl
@[simp] theorem writePay_fw (i : Nat) (v : Byte) (s : State) : (writePay i v s).fw = s.fw := rfl
@[simp] theorem writePay_fh (i : Nat) (v : Byte) (s : State) : (writePay i v s).fh = s.fh := rfl
@[simp] theorem writePay_fc (i : Nat) (v : Byte) (s : State) : (writePay i v s).fc = s.fc := rfl
@[simp] theorem writePay_fd (i : Nat) (v : Byte) (s : State) : (writePay i v s).fd = s.fd := rfl
@[simp] theorem writePay_pstate (i : Nat) (v : Byte) (s : State) : (writePay i v s).pstate = s.pstate := rfl
@[simp] theorem writePay_rmode (i : Nat) (v : Byte) (s : State) : (writePay i v s).rmode = s.rmode := rfl
@[simp] theorem writePay_mem (i : Nat) (v : Byte) (s : State) : (writePay i v s).mem = { s.mem with pay := tableSet s.mem.pay i v } := rfl
@[simp] theorem writePay_pending (i : Nat) (v : Byte) (s : State) : (writePay i v s).pending = s.pending := rfl
@[simp] theorem writePay_reply (i : Nat) (v : Byte) (s : State) : (writePay i v s).reply = s.reply := rfl
@[simp] theorem writePay_tick (i : Nat) (v : Byte) (s : State) : (writePay i v s).tick = s.tick := rfl

/-! ## pushBytes -/

@[simp] theorem pushBytes_cfg (bytes : List Byte) (s : State) : (pushBytes bytes s).cfg = s.cfg := rfl
@[simp] theorem pushBytes_fault (bytes : List Byte) (s : State) : (pushBytes bytes s).fault = s.fault := rfl
@[simp] theorem pushBytes_modelValid (bytes : List Byte) (s : State) : (pushBytes bytes s).modelValid = s.modelValid := rfl
@[simp] theorem pushBytes_result (bytes : List Byte) (s : State) : (pushBytes bytes s).result = s.result := rfl
@[simp] theorem pushBytes_predSize (bytes : List Byte) (s : State) : (pushBytes bytes s).predSize = s.predSize := rfl
@[simp] theorem pushBytes_predChannels (bytes : List Byte) (s : State) : (pushBytes bytes s).predChannels = s.predChannels := rfl
@[simp] theorem pushBytes_predDomain (bytes : List Byte) (s : State) : (pushBytes bytes s).predDomain = s.predDomain := rfl
@[simp] theorem pushBytes_row (bytes : List Byte) (s : State) : (pushBytes bytes s).row = s.row := rfl
@[simp] theorem pushBytes_col (bytes : List Byte) (s : State) : (pushBytes bytes s).col = s.col := rfl
@[simp] theorem pushBytes_ch (bytes : List Byte) (s : State) : (pushBytes bytes s).ch = s.ch := rfl
@[simp] theorem pushBytes_fixedCnt (bytes : List Byte) (s : State) : (pushBytes bytes s).fixedCnt = s.fixedCnt := rfl
@[simp] theorem pushBytes_escLen (bytes : List Byte) (s : State) : (pushBytes bytes s).escLen = s.escLen := rfl
@[simp] theorem pushBytes_escRd (bytes : List Byte) (s : State) : (pushBytes bytes s).escRd = s.escRd := rfl
@[simp] theorem pushBytes_ransX (bytes : List Byte) (s : State) : (pushBytes bytes s).ransX = s.ransX := rfl
@[simp] theorem pushBytes_pos (bytes : List Byte) (s : State) : (pushBytes bytes s).pos = BitVec.ofNat 25 (s.pos.toNat + bytes.length) := rfl
@[simp] theorem pushBytes_ransCnt (bytes : List Byte) (s : State) : (pushBytes bytes s).ransCnt = s.ransCnt := rfl
@[simp] theorem pushBytes_fw (bytes : List Byte) (s : State) : (pushBytes bytes s).fw = s.fw := rfl
@[simp] theorem pushBytes_fh (bytes : List Byte) (s : State) : (pushBytes bytes s).fh = s.fh := rfl
@[simp] theorem pushBytes_fc (bytes : List Byte) (s : State) : (pushBytes bytes s).fc = s.fc := rfl
@[simp] theorem pushBytes_fd (bytes : List Byte) (s : State) : (pushBytes bytes s).fd = s.fd := rfl
@[simp] theorem pushBytes_pstate (bytes : List Byte) (s : State) : (pushBytes bytes s).pstate = s.pstate := rfl
@[simp] theorem pushBytes_rmode (bytes : List Byte) (s : State) : (pushBytes bytes s).rmode = s.rmode := rfl
@[simp] theorem pushBytes_mem (bytes : List Byte) (s : State) : (pushBytes bytes s).mem = { s.mem with pay := storeBytes bytes s.pos.toNat s.mem.pay } := rfl
@[simp] theorem pushBytes_pending (bytes : List Byte) (s : State) : (pushBytes bytes s).pending = s.pending := rfl
@[simp] theorem pushBytes_reply (bytes : List Byte) (s : State) : (pushBytes bytes s).reply = s.reply := rfl
@[simp] theorem pushBytes_tick (bytes : List Byte) (s : State) : (pushBytes bytes s).tick = s.tick := rfl

/-! ## appendEscape -/

@[simp] theorem appendEscape_cfg (r : Half) (s : State) : (appendEscape r s).cfg = s.cfg := rfl
@[simp] theorem appendEscape_fault (r : Half) (s : State) : (appendEscape r s).fault = s.fault := rfl
@[simp] theorem appendEscape_modelValid (r : Half) (s : State) : (appendEscape r s).modelValid = s.modelValid := rfl
@[simp] theorem appendEscape_result (r : Half) (s : State) : (appendEscape r s).result = BitVec.ofNat 32 Config.escSym := rfl
@[simp] theorem appendEscape_predSize (r : Half) (s : State) : (appendEscape r s).predSize = s.predSize := rfl
@[simp] theorem appendEscape_predChannels (r : Half) (s : State) : (appendEscape r s).predChannels = s.predChannels := rfl
@[simp] theorem appendEscape_predDomain (r : Half) (s : State) : (appendEscape r s).predDomain = s.predDomain := rfl
@[simp] theorem appendEscape_row (r : Half) (s : State) : (appendEscape r s).row = s.row := rfl
@[simp] theorem appendEscape_col (r : Half) (s : State) : (appendEscape r s).col = s.col := rfl
@[simp] theorem appendEscape_ch (r : Half) (s : State) : (appendEscape r s).ch = s.ch := rfl
@[simp] theorem appendEscape_fixedCnt (r : Half) (s : State) : (appendEscape r s).fixedCnt = s.fixedCnt := rfl
@[simp] theorem appendEscape_escLen (r : Half) (s : State) : (appendEscape r s).escLen = s.escLen + 1 := rfl
@[simp] theorem appendEscape_escRd (r : Half) (s : State) : (appendEscape r s).escRd = s.escRd := rfl
@[simp] theorem appendEscape_ransX (r : Half) (s : State) : (appendEscape r s).ransX = s.ransX := rfl
@[simp] theorem appendEscape_pos (r : Half) (s : State) : (appendEscape r s).pos = s.pos := rfl
@[simp] theorem appendEscape_ransCnt (r : Half) (s : State) : (appendEscape r s).ransCnt = s.ransCnt := rfl
@[simp] theorem appendEscape_fw (r : Half) (s : State) : (appendEscape r s).fw = s.fw := rfl
@[simp] theorem appendEscape_fh (r : Half) (s : State) : (appendEscape r s).fh = s.fh := rfl
@[simp] theorem appendEscape_fc (r : Half) (s : State) : (appendEscape r s).fc = s.fc := rfl
@[simp] theorem appendEscape_fd (r : Half) (s : State) : (appendEscape r s).fd = s.fd := rfl
@[simp] theorem appendEscape_pstate (r : Half) (s : State) : (appendEscape r s).pstate = s.pstate := rfl
@[simp] theorem appendEscape_rmode (r : Half) (s : State) : (appendEscape r s).rmode = s.rmode := rfl
@[simp] theorem appendEscape_mem (r : Half) (s : State) : (appendEscape r s).mem = { s.mem with esc := tableSet s.mem.esc s.escLen.toNat r } := rfl
@[simp] theorem appendEscape_pending (r : Half) (s : State) : (appendEscape r s).pending = s.pending := rfl
@[simp] theorem appendEscape_reply (r : Half) (s : State) : (appendEscape r s).reply = s.reply := rfl
@[simp] theorem appendEscape_tick (r : Half) (s : State) : (appendEscape r s).tick = s.tick := rfl

/-! ## storeSample -/

@[simp] theorem storeSample_cfg (v : Int) (s : State) : (storeSample v s).cfg = s.cfg := rfl
@[simp] theorem storeSample_fault (v : Int) (s : State) : (storeSample v s).fault = s.fault := rfl
@[simp] theorem storeSample_modelValid (v : Int) (s : State) : (storeSample v s).modelValid = s.modelValid := rfl
@[simp] theorem storeSample_result (v : Int) (s : State) : (storeSample v s).result = s.result := rfl
@[simp] theorem storeSample_predSize (v : Int) (s : State) : (storeSample v s).predSize = s.predSize := rfl
@[simp] theorem storeSample_predChannels (v : Int) (s : State) : (storeSample v s).predChannels = s.predChannels := rfl
@[simp] theorem storeSample_predDomain (v : Int) (s : State) : (storeSample v s).predDomain = s.predDomain := rfl
@[simp] theorem storeSample_row (v : Int) (s : State) : (storeSample v s).row = s.row := rfl
@[simp] theorem storeSample_col (v : Int) (s : State) : (storeSample v s).col = s.col := rfl
@[simp] theorem storeSample_ch (v : Int) (s : State) : (storeSample v s).ch = s.ch := rfl
@[simp] theorem storeSample_fixedCnt (v : Int) (s : State) : (storeSample v s).fixedCnt = s.fixedCnt + 1 := rfl
@[simp] theorem storeSample_escLen (v : Int) (s : State) : (storeSample v s).escLen = s.escLen := rfl
@[simp] theorem storeSample_escRd (v : Int) (s : State) : (storeSample v s).escRd = s.escRd := rfl
@[simp] theorem storeSample_ransX (v : Int) (s : State) : (storeSample v s).ransX = s.ransX := rfl
@[simp] theorem storeSample_pos (v : Int) (s : State) : (storeSample v s).pos = s.pos := rfl
@[simp] theorem storeSample_ransCnt (v : Int) (s : State) : (storeSample v s).ransCnt = s.ransCnt := rfl
@[simp] theorem storeSample_fw (v : Int) (s : State) : (storeSample v s).fw = s.fw := rfl
@[simp] theorem storeSample_fh (v : Int) (s : State) : (storeSample v s).fh = s.fh := rfl
@[simp] theorem storeSample_fc (v : Int) (s : State) : (storeSample v s).fc = s.fc := rfl
@[simp] theorem storeSample_fd (v : Int) (s : State) : (storeSample v s).fd = s.fd := rfl
@[simp] theorem storeSample_pstate (v : Int) (s : State) : (storeSample v s).pstate = s.pstate := rfl
@[simp] theorem storeSample_rmode (v : Int) (s : State) : (storeSample v s).rmode = s.rmode := rfl
@[simp] theorem storeSample_pending (v : Int) (s : State) : (storeSample v s).pending = s.pending := rfl
@[simp] theorem storeSample_reply (v : Int) (s : State) : (storeSample v s).reply = s.reply := rfl
@[simp] theorem storeSample_tick (v : Int) (s : State) : (storeSample v s).tick = s.tick := rfl

/-! ## startFrame -/

@[simp] theorem startFrame_cfg (s : State) : (startFrame s).cfg = s.cfg := rfl
@[simp] theorem startFrame_fault (s : State) : (startFrame s).fault = s.fault := rfl
@[simp] theorem startFrame_modelValid (s : State) : (startFrame s).modelValid = s.modelValid := rfl
@[simp] theorem startFrame_result (s : State) : (startFrame s).result = s.result := rfl
@[simp] theorem startFrame_predSize (s : State) : (startFrame s).predSize = s.predSize := rfl
@[simp] theorem startFrame_predChannels (s : State) : (startFrame s).predChannels = s.predChannels := rfl
@[simp] theorem startFrame_predDomain (s : State) : (startFrame s).predDomain = s.predDomain := rfl
@[simp] theorem startFrame_row (s : State) : (startFrame s).row = 0 := rfl
@[simp] theorem startFrame_col (s : State) : (startFrame s).col = 0 := rfl
@[simp] theorem startFrame_ch (s : State) : (startFrame s).ch = 0 := rfl
@[simp] theorem startFrame_fixedCnt (s : State) : (startFrame s).fixedCnt = 0 := rfl
@[simp] theorem startFrame_escLen (s : State) : (startFrame s).escLen = s.escLen := rfl
@[simp] theorem startFrame_escRd (s : State) : (startFrame s).escRd = s.escRd := rfl
@[simp] theorem startFrame_ransX (s : State) : (startFrame s).ransX = s.ransX := rfl
@[simp] theorem startFrame_pos (s : State) : (startFrame s).pos = s.pos := rfl
@[simp] theorem startFrame_ransCnt (s : State) : (startFrame s).ransCnt = s.ransCnt := rfl
@[simp] theorem startFrame_fw (s : State) : (startFrame s).fw = widthField s.predSize := rfl
@[simp] theorem startFrame_fh (s : State) : (startFrame s).fh = heightField s.predSize := rfl
@[simp] theorem startFrame_fc (s : State) : (startFrame s).fc = s.predChannels := rfl
@[simp] theorem startFrame_fd (s : State) : (startFrame s).fd = s.predDomain := rfl
@[simp] theorem startFrame_pstate (s : State) : (startFrame s).pstate = .active := rfl
@[simp] theorem startFrame_rmode (s : State) : (startFrame s).rmode = s.rmode := rfl
@[simp] theorem startFrame_mem (s : State) : (startFrame s).mem = s.mem := rfl
@[simp] theorem startFrame_pending (s : State) : (startFrame s).pending = s.pending := rfl
@[simp] theorem startFrame_reply (s : State) : (startFrame s).reply = s.reply := rfl
@[simp] theorem startFrame_tick (s : State) : (startFrame s).tick = s.tick := rfl

/-! ## buildTables -/

@[simp] theorem buildTables_cfg (s : State) : (buildTables s).cfg = s.cfg := rfl
@[simp] theorem buildTables_fault (s : State) : (buildTables s).fault = s.fault := rfl
@[simp] theorem buildTables_modelValid (s : State) : (buildTables s).modelValid = true := rfl
@[simp] theorem buildTables_result (s : State) : (buildTables s).result = s.result := rfl
@[simp] theorem buildTables_predSize (s : State) : (buildTables s).predSize = s.predSize := rfl
@[simp] theorem buildTables_predChannels (s : State) : (buildTables s).predChannels = s.predChannels := rfl
@[simp] theorem buildTables_predDomain (s : State) : (buildTables s).predDomain = s.predDomain := rfl
@[simp] theorem buildTables_row (s : State) : (buildTables s).row = s.row := rfl
@[simp] theorem buildTables_col (s : State) : (buildTables s).col = s.col := rfl
@[simp] theorem buildTables_ch (s : State) : (buildTables s).ch = s.ch := rfl
@[simp] theorem buildTables_fixedCnt (s : State) : (buildTables s).fixedCnt = s.fixedCnt := rfl
@[simp] theorem buildTables_escLen (s : State) : (buildTables s).escLen = s.escLen := rfl
@[simp] theorem buildTables_escRd (s : State) : (buildTables s).escRd = s.escRd := rfl
@[simp] theorem buildTables_ransX (s : State) : (buildTables s).ransX = s.ransX := rfl
@[simp] theorem buildTables_pos (s : State) : (buildTables s).pos = s.pos := rfl
@[simp] theorem buildTables_ransCnt (s : State) : (buildTables s).ransCnt = s.ransCnt := rfl
@[simp] theorem buildTables_fw (s : State) : (buildTables s).fw = s.fw := rfl
@[simp] theorem buildTables_fh (s : State) : (buildTables s).fh = s.fh := rfl
@[simp] theorem buildTables_fc (s : State) : (buildTables s).fc = s.fc := rfl
@[simp] theorem buildTables_fd (s : State) : (buildTables s).fd = s.fd := rfl
@[simp] theorem buildTables_pstate (s : State) : (buildTables s).pstate = s.pstate := rfl
@[simp] theorem buildTables_rmode (s : State) : (buildTables s).rmode = s.rmode := rfl
@[simp] theorem buildTables_mem (s : State) : (buildTables s).mem = { s.mem with cum := buildCum (allFreqs s) 0 0, lut := buildLut (allFreqs s) 0 0 } := rfl
@[simp] theorem buildTables_pending (s : State) : (buildTables s).pending = s.pending := rfl
@[simp] theorem buildTables_reply (s : State) : (buildTables s).reply = s.reply := rfl
@[simp] theorem buildTables_tick (s : State) : (buildTables s).tick = s.tick := rfl

/-! ## accept -/

@[simp] theorem accept_cfg (rest : List HostEvent) (s : State) : (accept rest s).cfg = s.cfg := rfl
@[simp] theorem accept_fault (rest : List HostEvent) (s : State) : (accept rest s).fault = s.fault := rfl
@[simp] theorem accept_modelValid (rest : List HostEvent) (s : State) : (accept rest s).modelValid = s.modelValid := rfl
@[simp] theorem accept_result (rest : List HostEvent) (s : State) : (accept rest s).result = s.result := rfl
@[simp] theorem accept_predSize (rest : List HostEvent) (s : State) : (accept rest s).predSize = s.predSize := rfl
@[simp] theorem accept_predChannels (rest : List HostEvent) (s : State) : (accept rest s).predChannels = s.predChannels := rfl
@[simp] theorem accept_predDomain (rest : List HostEvent) (s : State) : (accept rest s).predDomain = s.predDomain := rfl
@[simp] theorem accept_row (rest : List HostEvent) (s : State) : (accept rest s).row = s.row := rfl
@[simp] theorem accept_col (rest : List HostEvent) (s : State) : (accept rest s).col = s.col := rfl
@[simp] theorem accept_ch (rest : List HostEvent) (s : State) : (accept rest s).ch = s.ch := rfl
@[simp] theorem accept_fixedCnt (rest : List HostEvent) (s : State) : (accept rest s).fixedCnt = s.fixedCnt := rfl
@[simp] theorem accept_escLen (rest : List HostEvent) (s : State) : (accept rest s).escLen = s.escLen := rfl
@[simp] theorem accept_escRd (rest : List HostEvent) (s : State) : (accept rest s).escRd = s.escRd := rfl
@[simp] theorem accept_ransX (rest : List HostEvent) (s : State) : (accept rest s).ransX = s.ransX := rfl
@[simp] theorem accept_pos (rest : List HostEvent) (s : State) : (accept rest s).pos = s.pos := rfl
@[simp] theorem accept_ransCnt (rest : List HostEvent) (s : State) : (accept rest s).ransCnt = s.ransCnt := rfl
@[simp] theorem accept_fw (rest : List HostEvent) (s : State) : (accept rest s).fw = s.fw := rfl
@[simp] theorem accept_fh (rest : List HostEvent) (s : State) : (accept rest s).fh = s.fh := rfl
@[simp] theorem accept_fc (rest : List HostEvent) (s : State) : (accept rest s).fc = s.fc := rfl
@[simp] theorem accept_fd (rest : List HostEvent) (s : State) : (accept rest s).fd = s.fd := rfl
@[simp] theorem accept_pstate (rest : List HostEvent) (s : State) : (accept rest s).pstate = s.pstate := rfl
@[simp] theorem accept_rmode (rest : List HostEvent) (s : State) : (accept rest s).rmode = s.rmode := rfl
@[simp] theorem accept_mem (rest : List HostEvent) (s : State) : (accept rest s).mem = s.mem := rfl
@[simp] theorem accept_pending (rest : List HostEvent) (s : State) : (accept rest s).pending = rest := rfl
@[simp] theorem accept_reply (rest : List HostEvent) (s : State) : (accept rest s).reply = s.reply := rfl
@[simp] theorem accept_tick (rest : List HostEvent) (s : State) : (accept rest s).tick = s.tick + 1 := rfl

/-! ## atWrite -/

@[simp] theorem atWrite_cfg (rest : List HostEvent) (s : State) : (atWrite rest s).cfg = s.cfg := rfl
@[simp] theorem atWrite_fault (rest : List HostEvent) (s : State) : (atWrite rest s).fault = s.fault := rfl
@[simp] theorem atWrite_modelValid (rest : List HostEvent) (s : State) : (atWrite rest s).modelValid = s.modelValid := rfl
@[simp] theorem atWrite_result (rest : List HostEvent) (s : State) : (atWrite rest s).result = s.result := rfl
@[simp] theorem atWrite_predSize (rest : List HostEvent) (s : State) : (atWrite rest s).predSize = s.predSize := rfl
@[simp] theorem atWrite_predChannels (rest : List HostEvent) (s : State) : (atWrite rest s).predChannels = s.predChannels := rfl
@[simp] theorem atWrite_predDomain (rest : List HostEvent) (s : State) : (atWrite rest s).predDomain = s.predDomain := rfl
@[simp] theorem atWrite_row (rest : List HostEvent) (s : State) : (atWrite rest s).row = s.row := rfl
@[simp] theorem atWrite_col (rest : List HostEvent) (s : State) : (atWrite rest s).col = s.col := rfl
@[simp] theorem atWrite_ch (rest : List HostEvent) (s : State) : (atWrite rest s).ch = s.ch := rfl
@[simp] theorem atWrite_fixedCnt (rest : List HostEvent) (s : State) : (atWrite rest s).fixedCnt = s.fixedCnt := rfl
@[simp] theorem atWrite_escLen (rest : List HostEvent) (s : State) : (atWrite rest s).escLen = s.escLen := rfl
@[simp] theorem atWrite_escRd (rest : List HostEvent) (s : State) : (atWrite rest s).escRd = s.escRd := rfl
@[simp] theorem atWrite_ransX (rest : List HostEvent) (s : State) : (atWrite rest s).ransX = s.ransX := rfl
@[simp] theorem atWrite_pos (rest : List HostEvent) (s : State) : (atWrite rest s).pos = s.pos := rfl
@[simp] theorem atWrite_ransCnt (rest : List HostEvent) (s : State) : (atWrite rest s).ransCnt = s.ransCnt := rfl
@[simp] theorem atWrite_fw (rest : List HostEvent) (s : State) : (atWrite rest s).fw = s.fw := rfl
@[simp] theorem atWrite_fh (rest : List HostEvent) (s : State) : (atWrite rest s).fh = s.fh := rfl
@[simp] theorem atWrite_fc (rest : List HostEvent) (s : State) : (atWrite rest s).fc = s.fc := rfl
@[simp] theorem atWrite_fd (rest : List HostEvent) (s : State) : (atWrite rest s).fd = s.fd := rfl
@[simp] theorem atWrite_pstate (rest : List HostEvent) (s : State) : (atWrite rest s).pstate = s.pstate := rfl
@[simp] theorem atWrite_rmode (rest : List HostEvent) (s : State) : (atWrite rest s).rmode = s.rmode := rfl
@[simp] theorem atWrite_mem (rest : List HostEvent) (s : State) : (atWrite rest s).mem = s.mem := rfl
@[simp] theorem atWrite_pending (rest : List HostEvent) (s : State) : (atWrite rest s).pending = rest := rfl
@[simp] theorem atWrite_reply (rest : List HostEvent) (s : State) : (atWrite rest s).reply = .writeDone := rfl
@[simp] theorem atWrite_tick (rest : List HostEvent) (s : State) : (atWrite rest s).tick = s.tick + 1 := rfl

/-! ## storeSample and advance -/

@[simp] theorem storeSample_mem (v : Int) (s : State) : (storeSample v s).mem = { s.mem with
    cp := tableSet s.mem.cp s.ch.toNat (readLine s s.ch s.col.toNat)
    lb := tableSet s.mem.lb (lineIndex s.ch s.col.toNat) (u16 v) } := rfl

@[simp] theorem advance_cfg (s : State) : (advance s).cfg = s.cfg := by
  unfold advance; split <;> (try split) <;> rfl
@[simp] theorem advance_fault (s : State) : (advance s).fault = s.fault := by
  unfold advance; split <;> (try split) <;> rfl
@[simp] theorem advance_modelValid (s : State) : (advance s).modelValid = s.modelValid := by
  unfold advance; split <;> (try split) <;> rfl
@[simp] theorem advance_result (s : State) : (advance s).result = s.result := by
  unfold advance; split <;> (try split) <;> rfl
@[simp] theorem advance_predSize (s : State) : (advance s).predSize = s.predSize := by
  unfold advance; split <;> (try split) <;> rfl
@[simp] theorem advance_predChannels (s : State) : (advance s).predChannels = s.predChannels := by
  unfold advance; split <;> (try split) <;> rfl
@[simp] theorem advance_predDomain (s : State) : (advance s).predDomain = s.predDomain := by
  unfold advance; split <;> (try split) <;> rfl
@[simp] theorem advance_fixedCnt (s : State) : (advance s).fixedCnt = s.fixedCnt := by
  unfold advance; split <;> (try split) <;> rfl
@[simp] theorem advance_escLen (s : State) : (advance s).escLen = s.escLen := by
  unfold advance; split <;> (try split) <;> rfl
@[simp] theorem advance_escRd (s : State) : (advance s).escRd = s.escRd := by
  unfold advance; split <;> (try split) <;> rfl
@[simp] theorem advance_ransX (s : State) : (advance s).ransX = s.ransX := by
  unfold advance; split <;> (try split) <;> rfl
@[simp] theorem advance_pos (s : State) : (advance s).pos = s.pos := by
  unfold advance; split <;> (try split) <;> rfl
@[simp] theorem advance_ransCnt (s : State) : (advance s).ransCnt = s.ransCnt := by
  unfold advance; split <;> (try split) <;> rfl
@[simp] theorem advance_fw (s : State) : (advance s).fw = s.fw := by
  unfold advance; split <;> (try split) <;> rfl
@[simp] theorem advance_fh (s : State) : (advance s).fh = s.fh := by
  unfold advance; split <;> (try split) <;> rfl
@[simp] theorem advance_fc (s : State) : (advance s).fc = s.fc := by
  unfold advance; split <;> (try split) <;> rfl
@[simp] theorem advance_fd (s : State) : (advance s).fd = s.fd := by
  unfold advance; split <;> (try split) <;> rfl
@[simp] theorem advance_rmode (s : State) : (advance s).rmode = s.rmode := by
  unfold advance; split <;> (try split) <;> rfl
@[simp] theorem advance_mem (s : State) : (advance s).mem = s.mem := by
  unfold advance; split <;> (try split) <;> rfl
@[simp] theorem advance_pending (s : State) : (advance s).pending = s.pending := by
  unfold advance; split <;> (try split) <;> rfl
@[simp] theorem advance_reply (s : State) : (advance s).reply = s.reply := by
  unfold advance; split <;> (try split) <;> rfl
@[simp] theorem advance_tick (s : State) : (advance s).tick = s.tick := by
  unfold advance; split <;> (try split) <;> rfl

end Sys2Proof.Machine
end

