-- ==== Sys2Proof/Laws/Ops.lean ====
section
/-! SUPPORT. What each shared operation can do, said once: reading entries, the port, a step, and each command's
meaning as a list of cases. -/

namespace Sys2Proof.Machine

/-! ## Entries -/

theorem entryOrFree_of_get {w : Nat} {tick : Nat} {n : TableName} {t : Table w} {i : Nat} {v : BitVec w}
    (h : tableGet t i = some v) : entryOrFree tick n t i = v := by simp [entryOrFree, h]

/-- A written entry does not depend on the free values. -/
theorem readFreq_of_get {s : State} {i : Nat} {v : Half} (h : tableGet s.mem.freq i = some v) : readFreq s i = v :=
  entryOrFree_of_get h

theorem readCum_of_get {s : State} {i : Nat} {v : Sym} (h : tableGet s.mem.cum i = some v) : readCum s i = v :=
  entryOrFree_of_get h

theorem readLut_of_get {s : State} {i : Nat} {v : Sym} (h : tableGet s.mem.lut i = some v) : readLut s i = v :=
  entryOrFree_of_get h

theorem readEsc_of_get {s : State} {i : Nat} {v : Half} (h : tableGet s.mem.esc i = some v) : readEsc s i = v :=
  entryOrFree_of_get h

theorem readPay_of_get {s : State} {i : Nat} {v : Byte} (h : tableGet s.mem.pay i = some v) : readPay s i = v :=
  entryOrFree_of_get h

theorem readLine_of_get {s : State} {c : BitVec 2} {j : Nat} {v : Half}
    (h : tableGet s.mem.lb (lineIndex c j) = some v) : readLine s c j = v := entryOrFree_of_get h

theorem readAboveLeft_of_get {s : State} {c : BitVec 2} {v : Half} (h : tableGet s.mem.cp c.toNat = some v) :
    readAboveLeft s c = v := entryOrFree_of_get h

/-- A value of 32 bits is kept as it is. -/
theorem wordOrFree_of_lt {tick n : Nat} (h : n < 2 ^ 32) : wordOrFree tick n = BitVec.ofNat 32 n := by
  unfold wordOrFree
  rw [if_pos ⟨Int.natCast_nonneg n, by exact_mod_cast h⟩]
  rfl

/-- Two line-buffer places have one index only when they are one place. -/
theorem lineIndex_inj {c d : BitVec 2} {j k : Nat} (hj : j < 2 ^ 16) (hk : k < 2 ^ 16)
    (h : lineIndex c j = lineIndex d k) : c = d ∧ j = k := by
  unfold lineIndex at h
  exact ⟨BitVec.eq_of_toNat_eq (by omega), by omega⟩

/-! ## The port -/

/-- An offset of the window is found at BLOCK_BASE plus it (R80). -/
theorem windowOffset_base (c : Params) {off : Nat} (h : off < 2 ^ 27) :
    windowOffset c (c.blockBase + off) = some off := by
  unfold windowOffset
  rw [if_pos ⟨by omega, by show c.blockBase + off < c.blockBase + 2 ^ 27; omega⟩, Nat.add_sub_cancel_left]

/-- MemRead at a word offset answers with what the address map reads there. -/
theorem memRead_eq (s : State) {off : Nat} (h : off < 2 ^ 27) (h4 : off % 4 = 0) :
    memRead off s = .next { s with
      tick := s.tick + 1,
      reply := .readData (readTarget (targetAt s.cfg off) { s with tick := s.tick + 1 }) } := by
  simp only [memRead, hostAccess, step, perform, performRead, accept, windowOffset_base s.cfg h]
  simp [admitted, h4]

/-- MemWrite at a word offset is the write of the target the address map has there. -/
theorem memWrite_eq (s : State) (v : Word) {off : Nat} (h : off < 2 ^ 27) (h4 : off % 4 = 0) :
    memWrite off v s
      = writeTarget (targetAt s.cfg off) v { s with tick := s.tick + 1, reply := .writeDone } := by
  simp only [memWrite, hostAccess, step, perform, performWrite, accept, windowOffset_base s.cfg h]
  simp [admitted, h4]

/-- What a step can do: wait, answer a read, perform a write, or take hardware reset. -/
theorem step_cases {s t : State} (h : step s = .next t) :
    (s.pending = [] ∧ t = s)
      ∨ (∃ addr size rest v, s.pending = .read addr size :: rest ∧ t = { accept rest s with reply := .readData v })
      ∨ (∃ addr size v rest off, s.pending = .write addr size v :: rest ∧ windowOffset s.cfg addr = some off
          ∧ admitted off size = true ∧ writeTarget (targetAt s.cfg off) v (atWrite rest s) = .next t)
      ∨ ∃ rest, s.pending = .hardReset :: rest ∧ t = hardReset (accept rest s) := by
  unfold step at h
  split at h
  · exact .inl ⟨‹_›, by simpa using h.symm⟩
  · rename_i e rest hp
    cases e with
    | read addr size =>
      simp only [perform, performRead] at h
      split at h
      · cases h
      · split at h
        · exact .inr (.inl ⟨addr, size, rest, _, hp, by simpa using h.symm⟩)
        · cases h
    | write addr size v =>
      simp only [perform, performWrite] at h
      split at h
      · cases h
      · split at h
        · exact .inr (.inr (.inl ⟨addr, size, v, rest, _, hp, ‹_›, ‹_›, h⟩))
        · cases h
    | hardReset => exact .inr (.inr (.inr ⟨rest, hp, by simpa [perform] using h.symm⟩))

/-- A command word that arrives at CMD is issued on the state the write takes effect on (R34, R160). -/
theorem step_writeCmd {s : State} {rest : List HostEvent} {w : Word}
    (h : s.pending = .write (s.cfg.blockBase + 0x04) 4 w :: rest) : step s = issue w (atWrite rest s) := by
  have hw : windowOffset s.cfg (s.cfg.blockBase + 0x04) = some 0x04 := windowOffset_base s.cfg (by decide)
  simp only [step, h, perform, performWrite, accept_cfg, hw]
  rfl

/-- What the address map can give: a register, or an entry the window and the instance have, or reserved space. -/
theorem targetAt_cases (c : Params) (off : Nat) :
    (∃ r, targetAt c off = .reg r) ∨ (∃ i, i < 4096 ∧ targetAt c off = .freq i)
      ∨ (∃ i, i < 4096 ∧ targetAt c off = .cum i) ∨ (∃ i, i < 4096 ∧ targetAt c off = .lut i)
      ∨ (∃ i, i < c.escDepth ∧ targetAt c off = .esc i) ∨ (∃ i, i < c.payloadBytes ∧ targetAt c off = .pay i)
      ∨ targetAt c off = .reserved := by
  unfold targetAt
  split
  · unfold regAt
    split <;> simp
  · split
    · exact .inr (.inl ⟨_, by omega, rfl⟩)
    · split
      · exact .inr (.inr (.inl ⟨_, by omega, rfl⟩))
      · split
        · exact .inr (.inr (.inr (.inl ⟨_, by omega, rfl⟩)))
        · split
          · split
            · exact .inr (.inr (.inr (.inr (.inl ⟨_, ‹_›, rfl⟩))))
            · simp
          · split
            · split
              · exact .inr (.inr (.inr (.inr (.inr (.inl ⟨_, ‹_›, rfl⟩)))))
              · simp
            · simp

/-- What an issued word can do: nothing while the gate discards it, ILLEGAL_CMD, or its command. -/
theorem issue_cases {w : Word} {s : State} {o : Host.Outcome State Fault Refusal} (h : issue w s = o) :
    (gateDiscards w s = true ∧ o = .next s)
      ∨ (gateDiscards w s = false ∧ decode w = none ∧ o = .next (raise w .illegalCmd 0 s))
      ∨ ∃ i, gateDiscards w s = false ∧ decode w = some i ∧ exec i s = o := by
  unfold issue at h
  split at h
  · exact .inl ⟨‹_›, h.symm⟩
  · rename_i hg
    split at h
    · exact .inr (.inl ⟨by simpa using hg, ‹_›, h.symm⟩)
    · exact .inr (.inr ⟨_, by simpa using hg, ‹_›, h⟩)

/-! ## The commands, case by case -/

theorem execPredInit_cases {s t : State} (h : execPredInit s = .next t) :
    (∃ info, configProblem s.cfg (widthField s.predSize) (heightField s.predSize) s.predChannels = some info
        ∧ t = raise (encode .predInit) .badConfig info s)
      ∨ (configProblem s.cfg (widthField s.predSize) (heightField s.predSize) s.predChannels = none
        ∧ t = startFrame s) := by
  simp only [execPredInit, Host.Outcome.next.injEq] at h
  split at h
  · exact .inl ⟨_, ‹_›, h.symm⟩
  · exact .inr ⟨‹_›, h.symm⟩

theorem execPredRes_cases {v : Half} {s t : State} (h : execPredRes v s = .next t) :
    (s.pstate ≠ .active ∧ t = raise (encode (.predRes v)) .predState (pstateCode s.pstate) s)
      ∨ (s.pstate = .active ∧ s.fd = 0 ∧ 255 < v.toNat
          ∧ t = raise (encode (.predRes v)) .badPixel (v.setWidth 32) s)
      ∨ (s.pstate = .active ∧ (s.fd = 0 → v.toNat ≤ 255)
          ∧ t = advance (storeSample (sampleOperand s.fd v)
              { s with result := u32 (wrap16 (sampleOperand s.fd v - prediction s)) })) := by
  simp only [execPredRes, Host.Outcome.next.injEq] at h
  split at h
  · exact .inl ⟨‹_›, h.symm⟩
  · rename_i ha
    split at h
    · rename_i hb
      exact .inr (.inl ⟨by simpa using ha, hb.1, hb.2, h.symm⟩)
    · rename_i hb
      exact .inr (.inr ⟨by simpa using ha, fun hf => by by_contra hv; exact hb ⟨hf, by omega⟩, h.symm⟩)

theorem execPredRec_cases {r : Half} {s t : State} (h : execPredRec r s = .next t) :
    (s.pstate ≠ .active ∧ t = raise (encode (.predRec r)) .predState (pstateCode s.pstate) s)
      ∨ (s.pstate = .active ∧ t = advance (storeSample (reconstructed s (residualOperand r))
          { s with result := u32 (reconstructed s (residualOperand r)) })) := by
  simp only [execPredRec, Host.Outcome.next.injEq] at h
  split at h
  · exact .inl ⟨‹_›, h.symm⟩
  · rename_i ha
    exact .inr ⟨by simpa using ha, h.symm⟩

theorem execSymEnc_cases {v : Half} {s t : State} (h : execSymEnc v s = .next t) :
    (zigzag (residualOperand v) < 4095
        ∧ t = { s with result := BitVec.ofNat 32 (zigzag (residualOperand v)) })
      ∨ (4095 ≤ zigzag (residualOperand v) ∧ s.cfg.escDepth ≤ s.escLen.toNat
          ∧ t = raise (encode (.symEnc v)) .escOverflow (s.escLen.setWidth 32) s)
      ∨ (4095 ≤ zigzag (residualOperand v) ∧ s.escLen.toNat < s.cfg.escDepth ∧ t = appendEscape v s) := by
  simp only [execSymEnc, Host.Outcome.next.injEq] at h
  split at h
  · exact .inl ⟨‹_›, h.symm⟩
  · rename_i ha
    split at h
    · exact .inr (.inl ⟨Nat.le_of_not_lt ha, ‹_›, h.symm⟩)
    · exact .inr (.inr ⟨Nat.le_of_not_lt ha, by omega, h.symm⟩)

theorem execSymDec_cases {y : Sym} {s t : State} (h : execSymDec y s = .next t) :
    (y.toNat ≠ 4095 ∧ t = { s with result := u32 (unzigzag y.toNat) })
      ∨ (y.toNat = 4095 ∧ s.escLen.toNat ≤ s.escRd.toNat
          ∧ t = raise (encode (.symDec y)) .escUnderflow (s.escRd.setWidth 32) s)
      ∨ (y.toNat = 4095 ∧ s.escRd.toNat < s.escLen.toNat
          ∧ t = { s with result := u32 (sext16 (readEsc s s.escRd.toNat)), escRd := s.escRd + 1 }) := by
  unfold execSymDec symbolOperand at h
  simp only [Host.Outcome.next.injEq] at h
  split at h
  · exact .inl ⟨‹_›, h.symm⟩
  · rename_i ha
    have ha : y.toNat = 4095 := by simpa using ha
    split at h
    · exact .inr (.inl ⟨ha, ‹_›, h.symm⟩)
    · exact .inr (.inr ⟨ha, by omega, h.symm⟩)

theorem execModelBuild_cases {s t : State} (h : execModelBuild s = .next t) :
    (∃ info, t = raise (encode .modelBuild) .modelInvalid info s)
      ∨ (lowestZero s = none ∧ (allFreqs s).sum = 4096 ∧ t = buildTables s) := by
  simp only [execModelBuild, Host.Outcome.next.injEq] at h
  split at h
  · exact .inl ⟨_, h.symm⟩
  · split at h
    · exact .inl ⟨_, h.symm⟩
    · rename_i hz hs
      exact .inr ⟨hz, by simpa using hs, h.symm⟩

theorem encodeSymbol_cases (y : Sym) (f cf : Nat) (s : State) :
    encodeSymbol y f cf s = raise (encode (.ransEnc y)) .bufOverflow (s.pos.setWidth 32) s
      ∨ (s.pos.toNat + (encRenorm (s.cfg.xmax f) (shiftLimit f s.tick) s.ransX.toNat).2.length ≤ s.cfg.payloadBytes
          ∧ encodeSymbol y f cf s
            = { pushBytes (encRenorm (s.cfg.xmax f) (shiftLimit f s.tick) s.ransX.toNat).2 s with
                ransX := encodedState s.tick (encRenorm (s.cfg.xmax f) (shiftLimit f s.tick) s.ransX.toNat).1 f cf
                ransCnt := s.ransCnt + 1 }) := by
  unfold encodeSymbol
  by_cases hp : s.pos.toNat + (encRenorm (s.cfg.xmax f) (shiftLimit f s.tick) s.ransX.toNat).2.length
      > s.cfg.payloadBytes
  · exact .inl (if_pos hp)
  · exact .inr ⟨Nat.le_of_not_lt hp, if_neg hp⟩

theorem execRansEnc_cases {y : Sym} {s t : State} (h : execRansEnc y s = .next t) :
    (∃ c info, t = raise (encode (.ransEnc y)) c info s)
      ∨ (s.rmode = .enc ∧ s.modelValid = true
          ∧ t = encodeSymbol y (readFreq s y.toNat).toNat (readCum s y.toNat).toNat s) := by
  simp only [execRansEnc, Host.Outcome.next.injEq] at h
  split at h
  · exact .inl ⟨_, _, h.symm⟩
  · split at h
    · exact .inl ⟨_, _, h.symm⟩
    · rename_i hm hv
      exact .inr ⟨by simpa using hm, by simpa using hv, h.symm⟩

theorem execRansEncFlush_cases {s t : State} (h : execRansEncFlush s = .next t) :
    (∃ c info, t = raise (encode .ransEncFlush) c info s)
      ∨ (s.rmode = .enc ∧ s.pos.toNat + 4 ≤ s.cfg.payloadBytes
          ∧ t = { pushBytes (flushBytes s.ransX) s with rmode := .idle }) := by
  simp only [execRansEncFlush, Host.Outcome.next.injEq] at h
  split at h
  · exact .inl ⟨_, _, h.symm⟩
  · split at h
    · exact .inl ⟨_, _, h.symm⟩
    · rename_i hm hp
      exact .inr ⟨by simpa using hm, by omega, h.symm⟩

theorem execRansDecInit_cases {s t : State} (h : execRansDecInit s = .next t) :
    (∃ c info, t = raise (encode .ransDecInit) c info s)
      ∨ (4 ≤ s.pos.toNat ∧ t = { s with ransX := tailState s, pos := s.pos - 4, rmode := .dec, ransCnt := 0 }) := by
  simp only [execRansDecInit, Host.Outcome.next.injEq] at h
  split at h
  · exact .inl ⟨_, _, h.symm⟩
  · exact .inr ⟨by omega, h.symm⟩

theorem execRansDec_cases {s t : State} (h : execRansDec s = .next t) :
    (∃ c info, t = raise (encode .ransDec) c info s)
      ∨ ∃ x p, s.rmode = .dec ∧ s.modelValid = true
          ∧ decRenorm s.cfg.low (readPay s) s.pos.toNat (steppedState s) = some (x, p)
          ∧ t = { s with
              ransX := wordOrFree s.tick x, pos := BitVec.ofNat 25 p
              result := (slotSymbol s).setWidth 32, ransCnt := s.ransCnt + 1 } := by
  simp only [execRansDec, Host.Outcome.next.injEq] at h
  split at h
  · exact .inl ⟨_, _, h.symm⟩
  · split at h
    · exact .inl ⟨_, _, h.symm⟩
    · rename_i hm hv
      unfold decodeSymbol at h
      split at h
      · exact .inl ⟨_, _, h.symm⟩
      · rename_i x p hd
        exact .inr ⟨x, p, by simpa using hm, by simpa using hv, hd, h.symm⟩

/-- The pops of DecRenorm end at or below the stack pointer they began at (R296). -/
theorem decRenorm_le {low : Nat} {pay : Nat → Byte} {p p' : Nat} {x x' : Int}
    (h : decRenorm low pay p x = some (x', p')) :
    p' ≤ p := by
  induction p generalizing x with
  | zero =>
    simp only [decRenorm] at h
    split at h
    · cases h
    · simp at h; omega
  | succ p ih =>
    simp only [decRenorm] at h
    split at h
    · exact Nat.le_succ_of_le (ih h)
    · simp at h; omega

end Sys2Proof.Machine
end

