-- ==== Sys2Proof/Laws/PerInstr.lean ====
section
/-! SUPPORT. Facts of every instruction as syntax, one lemma a constructor: the word of a command lies in the row of the
opcode map that is its own (30_encoding.md R126). -/

namespace Sys2Proof.Laws.EncodedInItsRow

/-- The command's word matches its row under the row's mask. -/
def Statement (i : Instr) : Prop := encode i &&& (rowOf i).2 = (rowOf i).1

/-- A format V word under its mask keeps OP and RSVD and drops the operand. -/
theorem mask_formatV (o : BitVec 8) (v : Half) : (o ++ 0#8 ++ v : Word) &&& 0xFFFF0000#32 = o ++ 0#8 ++ 0#16 := by
  have h : (0xFFFF0000#32 : Word) = (BitVec.allOnes 16 ++ 0#16 : Word) := by decide
  rw [h, BitVec.and_append, BitVec.and_allOnes, BitVec.and_zero]

/-- A format S word under its mask keeps OP and RSVD and drops the operand. -/
theorem mask_formatS (o : BitVec 8) (y : Sym) : (o ++ 0#12 ++ y : Word) &&& 0xFFFFF000#32 = o ++ 0#12 ++ 0#12 := by
  have h : (0xFFFFF000#32 : Word) = (BitVec.allOnes 20 ++ 0#12 : Word) := by decide
  rw [h, BitVec.and_append, BitVec.and_allOnes, BitVec.and_zero]

theorem nop : Statement .nop := by unfold Statement; decide
theorem clrFault : Statement .clrFault := by unfold Statement; decide
theorem softReset : Statement .softReset := by unfold Statement; decide
theorem predInit : Statement .predInit := by unfold Statement; decide
theorem predRes (v : Half) : Statement (.predRes v) := mask_formatV 0x11#8 v
theorem predRec (v : Half) : Statement (.predRec v) := mask_formatV 0x12#8 v
theorem symInit : Statement .symInit := by unfold Statement; decide
theorem symEnc (v : Half) : Statement (.symEnc v) := mask_formatV 0x21#8 v
theorem symDec (y : Sym) : Statement (.symDec y) := mask_formatS 0x22#8 y
theorem modelBuild : Statement .modelBuild := by unfold Statement; decide
theorem ransEncInit : Statement .ransEncInit := by unfold Statement; decide
theorem ransEnc (y : Sym) : Statement (.ransEnc y) := mask_formatS 0x41#8 y
theorem ransEncFlush : Statement .ransEncFlush := by unfold Statement; decide
theorem ransDecInit : Statement .ransDecInit := by unfold Statement; decide
theorem ransDec : Statement .ransDec := by unfold Statement; decide

end Sys2Proof.Laws.EncodedInItsRow
end

