-- ==== Sys2Proof/Laws/Predictor.lean ====
section
/-! SUPPORT. The predictor's shared operations: the sample's 16-bit pattern, where a sample goes, and how the position
moves (41_predictor.md R186, R187). -/

namespace Sys2Proof.Machine

/-- The 16-bit pattern of a sample operand is the operand. -/
theorem u16_sampleOperand (d : BitVec 1) (v : Half) : u16 (sampleOperand d v) = v := by
  unfold u16 sampleOperand sext16
  split
  · exact BitVec.eq_of_toNat_eq (by simp)
  · exact BitVec.ofInt_toInt

/-- u32 of a wrapped value is its 16-bit pattern, sign-extended (R13). -/
theorem u32_wrap16 (x : Int) : u32 (wrap16 x) = (BitVec.ofInt 16 x).signExtend 32 := by
  unfold u32 wrap16; rw [BitVec.signExtend]

/-- The low 16 bits of u32 are the 16-bit pattern. -/
theorem u32_low (x : Int) : (u32 x).setWidth 16 = u16 x := by
  unfold u16 u32
  exact BitVec.eq_of_toNat_eq (by simp; omega)

/-- An earlier row-and-column pair has a smaller row-major index. -/
theorem raster_lt {a b c d w : Nat} (h : a < c) (hb : b < w) : a * w + b < c * w + d := by
  have h1 : (a + 1) * w ≤ c * w := Nat.mul_le_mul_right _ h
  have h2 : (a + 1) * w = a * w + w := by ring
  omega

/-- store(v) writes one line-buffer entry (R186). -/
theorem storeSample_line (v : Int) (s : State) {c : BitVec 2} {j : Nat} (hj : j < 2 ^ 16) :
    tableGet (storeSample v s).mem.lb (lineIndex c j)
      = if c = s.ch ∧ j = s.col.toNat then some (u16 v) else tableGet s.mem.lb (lineIndex c j) := by
  simp only [storeSample]
  rw [tableGet_tableSet]
  have := s.col.isLt
  by_cases h : c = s.ch ∧ j = s.col.toNat
  · rw [if_pos h, if_pos (by rw [h.1, h.2])]
  · rw [if_neg h, if_neg fun h' => h (lineIndex_inj hj (by omega) h')]

/-- store(v) writes one above-left register: the old line-buffer entry goes there (R186). -/
theorem storeSample_aboveLeft (v : Int) (s : State) (c : BitVec 2) :
    tableGet (storeSample v s).mem.cp c.toNat
      = if c = s.ch then some (readLine s s.ch s.col.toNat) else tableGet s.mem.cp c.toNat := by
  simp only [storeSample]
  rw [tableGet_tableSet]
  by_cases h : c = s.ch
  · rw [if_pos h, if_pos (by rw [h])]
  · rw [if_neg h, if_neg fun h' => h (BitVec.eq_of_toNat_eq h')]

/-- The three ways a position inside the frame moves, with the counters as numbers (R187). -/
theorem advance_cases {s : State} (h : PositionInFrame s) :
    (s.ch.toNat + 1 ≠ s.fc.toNat ∧ (advance s).row = s.row ∧ (advance s).col = s.col
        ∧ (advance s).ch.toNat = s.ch.toNat + 1 ∧ (advance s).pstate = s.pstate)
      ∨ (s.ch.toNat + 1 = s.fc.toNat ∧ s.col.toNat + 1 ≠ s.fw.toNat ∧ (advance s).row = s.row
        ∧ (advance s).col.toNat = s.col.toNat + 1 ∧ (advance s).ch = 0 ∧ (advance s).pstate = s.pstate)
      ∨ (s.ch.toNat + 1 = s.fc.toNat ∧ s.col.toNat + 1 = s.fw.toNat ∧ (advance s).row.toNat = s.row.toNat + 1
        ∧ (advance s).col = 0 ∧ (advance s).ch = 0
        ∧ (advance s).pstate = if s.row.toNat + 1 = s.fh.toNat then .done else s.pstate) := by
  obtain ⟨h1, h2, h3⟩ := h
  have l1 := s.fh.isLt
  have l2 := s.fw.isLt
  have l3 := s.fc.isLt
  have hr : (s.row + 1).toNat = s.row.toNat + 1 := by simp; omega
  have hcol : (s.col + 1).toNat = s.col.toNat + 1 := by simp; omega
  have hch : (s.ch + 1).toNat = s.ch.toNat + 1 := by simp; omega
  have eqc : s.ch + 1 = s.fc ↔ s.ch.toNat + 1 = s.fc.toNat := by rw [← BitVec.toNat_inj, hch]
  have eqw : s.col + 1 = s.fw ↔ s.col.toNat + 1 = s.fw.toNat := by rw [← BitVec.toNat_inj, hcol]
  have eqh : s.row + 1 = s.fh ↔ s.row.toNat + 1 = s.fh.toNat := by rw [← BitVec.toNat_inj, hr]
  unfold advance
  split
  · rename_i e
    split
    · rename_i e2
      refine .inr (.inr ⟨eqc.1 e, eqw.1 e2, hr, rfl, rfl, ?_⟩)
      simp only [eqh]
    · rename_i e2
      exact .inr (.inl ⟨eqc.1 e, fun h => e2 (eqw.2 h), rfl, hcol, rfl, rfl⟩)
  · rename_i e
    exact .inl ⟨fun h => e (eqc.2 h), rfl, rfl, hch, rfl⟩

/-- A position in the frame has a flat index below the number of samples. -/
theorem sampleIndex_lt {s : State} (h : PositionInFrame s) :
    sampleIndex s < s.fw.toNat * s.fh.toNat * s.fc.toNat := by
  obtain ⟨h1, h2, h3⟩ := h
  have := raster_lt (d := 0) (raster_lt (d := 0) h1 h2) h3
  simp only [Nat.add_zero] at this
  rw [Nat.mul_comm s.fw.toNat]
  exact this

end Sys2Proof.Machine
end

