-- ==== Sys2Proof/Tests/Slice0.lean ====
section
/-! SUPPORT. The model's own tests. Expected values come from the spec: the rows of 30_encoding.md R126 and the vectors of
95_test_vectors.md (named V-…). After them, for each statement with hypotheses, a witness: concrete states and operands
that meet all of them. -/

namespace Sys2Proof.Tests

open Sys2Proof Sys2Proof.Machine

/-! ## Helpers -/

/-- The next state, if there is one. -/
def nextOf (o : Host.Outcome State Fault Refusal) : Option State :=
  match o with
  | .next s => some s
  | .fault _ | .refused _ => none

/-- The name of a refusal, if there is one. -/
def refusalOf (o : Host.Outcome State Fault Refusal) : Option Refusal :=
  match o with
  | .refused r => some r
  | .next _ | .fault _ => none

/-- A state at the start of a frame. -/
def framed (w h : Half) (c : BitVec 2) (d : BitVec 1) : State :=
  { State.reset with fw := w, fh := h, fc := c, fd := d, pstate := .active }

/-- V-PRED-10 before its last sample: 2 x 2, one channel, samples 10, 20, 30. -/
def midFrame : State :=
  { framed 2 2 1 0 with
    row := 1, col := 1, fixedCnt := 3
    mem := { Memory.unwritten with lb := [(0, 30), (1, 20)], cp := [(0, 10)] } }

/-- A finished 1 x 1 frame (V-PRED-9). -/
def doneFrame : State := { framed 1 1 1 0 with row := 1, pstate := .done, fixedCnt := 1 }

/-- A held record. -/
def held : State := { State.reset with fault := some { code := .illegalCmd, info := 0, cmd := 1 } }

/-- An encoder at work, with the model's entries for symbols 1 and 4095 only. -/
def encoding : State :=
  { State.reset with
    rmode := .enc, modelValid := true, ransX := 0x10000
    mem := { Memory.unwritten with
      freq := [(1, 1), (4095, 1)]
      cum := [(1, 1), (4095, 4095)]
      lut := [(1, 1)] } }

/-- P2 after RANS_DEC_INIT: X = 0x00010001, POS = 3. -/
def decoding : State :=
  { encoding with
    rmode := .dec, ransX := 0x10001, pos := 3
    mem := { encoding.mem with pay := [(0, 0), (1, 2), (2, 0), (3, 1), (4, 0), (5, 1), (6, 0)] } }

/-- The table whose entry i is f i, for n entries. -/
@[irreducible] def fullTable {w : Nat} (n : Nat) (f : Nat → BitVec w) : Table w :=
  (List.range n).map (fun i => (i, f i))

/-- The uniform model, built. -/
def uniform : State :=
  { State.reset with
    modelValid := true
    mem := { Memory.unwritten with
      freq := fullTable 4096 (fun _ => 1), cum := fullTable 4096 (BitVec.ofNat 12), lut := fullTable 4096 (BitVec.ofNat 12) } }

/-- One bus write at a block offset waits at the port of s. -/
def writing (off : Nat) (v : Word) (s : State) : State := { s with pending := [.write off 4 v] }

/-! ## Decoding: one word of every row of R126, and words outside the map -/

theorem test_decode_nop : decodeTableWord 32 0x00000000 = some .nop := by decide
theorem test_decode_clrFault : decodeTableWord 32 0x01000000 = some .clrFault := by decide
theorem test_decode_softReset : decodeTableWord 32 0x02000000 = some .softReset := by decide
theorem test_decode_predInit : decodeTableWord 32 0x10000000 = some .predInit := by decide
theorem test_decode_predRes : decodeTableWord 32 0x11008001 = some (.predRes 0x8001#16) := by decide
theorem test_decode_predRec : decodeTableWord 32 0x1200FFFB = some (.predRec 0xFFFB#16) := by decide
theorem test_decode_symInit : decodeTableWord 32 0x20000000 = some .symInit := by decide
theorem test_decode_symEnc : decodeTableWord 32 0x21000800 = some (.symEnc 0x0800#16) := by decide
theorem test_decode_symDec : decodeTableWord 32 0x22000FFE = some (.symDec 0xFFE#12) := by decide
theorem test_decode_modelBuild : decodeTableWord 32 0x30000000 = some .modelBuild := by decide
theorem test_decode_ransEncInit : decodeTableWord 32 0x40000000 = some .ransEncInit := by decide
theorem test_decode_ransEnc : decodeTableWord 32 0x41000100 = some (.ransEnc 0x100#12) := by decide
theorem test_decode_ransEncFlush : decodeTableWord 32 0x42000000 = some .ransEncFlush := by decide
theorem test_decode_ransDecInit : decodeTableWord 32 0x48000000 = some .ransDecInit := by decide
theorem test_decode_ransDec : decodeTableWord 32 0x49000000 = some .ransDec := by decide

/-- V-CTL-1, 5, 6, 7, 8, 9 and the opcodes next to the map's (R127, R128). -/
theorem test_decode_illegal : [0x00000001#32, 0x03000000#32, 0x01000001#32, 0x41001000#32, 0x11010000#32,
    0xFF000000#32, 0x49000001#32, 0x0F000000#32, 0x13000000#32, 0x1F000000#32, 0x23000000#32, 0x31000000#32,
    0x43000000#32, 0x4A000000#32, 0x22001000#32, 0x21010000#32].map decode = List.replicate 16 none := by
  simp only [List.map_cons, List.map_nil]
  rfl

theorem test_encode_words : encode (.predRes 0x100#16) = 0x11000100#32 ∧ encode (.ransEnc 3#12) = 0x41000003#32
    ∧ encode (.symEnc 0xFF9C#16) = 0x2100FF9C#32 := by decide

/-! ## Well-formedness: each check refuses -/

theorem test_params_ok : Params.testVectors.legal = true := by decide
theorem test_params_ransB : ({ Params.testVectors with ransB := 17 } : Params).legal = false := by decide
theorem test_params_width : ({ Params.testVectors with maxWidth := 0 } : Params).legal = false
    ∧ ({ Params.testVectors with maxWidth := 65536 } : Params).legal = false := by decide
theorem test_params_payload : ({ Params.testVectors with payloadBytes := 3 } : Params).legal = false
    ∧ ({ Params.testVectors with payloadBytes := 16777217 } : Params).legal = false := by
  simp [Params.legal, Params.testVectors]
theorem test_params_esc : ({ Params.testVectors with escDepth := 0 } : Params).legal = false
    ∧ ({ Params.testVectors with escDepth := 262145 } : Params).legal = false := by
  simp [Params.legal, Params.testVectors]
theorem test_params_base : ({ Params.testVectors with blockBase := 0x4000000 } : Params).legal = false := by decide
theorem test_operand_v : operandFitsV (-32768) = true ∧ operandFitsV 65535 = true ∧ operandFitsV (-32769) = false
    ∧ operandFitsV 65536 = false := by decide
theorem test_operand_s : operandFitsS 0 = true ∧ operandFitsS 4095 = true ∧ operandFitsS (-1) = false
    ∧ operandFitsS 4096 = false := by decide

/-! ## Issue and the control commands -/

/-- V-CTL-1. -/
theorem test_illegal_word : ((nextOf (issue 0x00000001#32 State.reset)).map
    (fun t => (statusWord t, faultInfoWord t, faultCmdWord t))) = some (0x11#32, 0#32, 1#32) := by decide

/-- V-CTL-2, V-CTL-3. -/
theorem test_gate : nextOf (issue 0x00000000#32 held) = some held ∧ nextOf (issue 0x10000000#32 held) = some held := by
  decide

/-- V-CTL-4. -/
theorem test_clrFault : ((nextOf (issue 0x01000000#32 held)).map statusWord) = some 0#32 := by decide

/-- V-CTL-10, V-CTL-11: the payload byte is kept, the registers are not. -/
theorem test_softReset : ((nextOf (issue 0x02000000#32 decoding)).map
    (fun t => (statusWord t, t.pos, tableGet t.mem.pay 1))) = some (0#32, 0#25, some 2#8) := by decide

/-- A command word written to CMD runs through a step. -/
theorem test_step_cmd : ((nextOf (step (State.reset.withFetchWord 32 0x40000000))).map
    (fun t => (t.rmode, t.ransX, t.pending))) = some (.enc, 0x10000#32, []) := by decide

/-! ## The port -/

/-- V-MEM-1. -/
theorem test_caps : [readReg .id State.reset, readReg .capMisc State.reset, readReg .capPayload State.reset,
    readReg .capEsc State.reset] = [0x534E4152#32, 0x0C100040#32, 0x100#32, 0x10#32] := by decide

/-- V-MEM-3. -/
theorem test_bus_error : refusalOf (memWrite 2 0 State.reset) = some .busError
    ∧ refusalOf (step { State.reset with pending := [.read 0 1] }) = some .busError
    ∧ refusalOf (step { State.reset with pending := [.read 0x8000000 4] }) = some .outsideWindow := by decide

/-- V-MEM-7. -/
theorem test_esc_window : ((nextOf (memWrite 0x100000 0x8000 State.reset)).bind
    (fun s => (nextOf (memRead 0x100000 s)).map (fun t => (t.reply, t.escLen)))) = some (.readData 0xFFFF8000#32, 0#19) := by
  decide

/-- V-MEM-10. -/
theorem test_esc_len : ((nextOf (memWrite 0x28 17 State.reset)).map State.escLen) = some 0#19
    ∧ ((nextOf (memWrite 0x28 16 State.reset)).map State.escLen) = some 16#19 := by decide

/-- V-MEM-13. -/
theorem test_pred_fmt : ((nextOf (memWrite 0x14 0xFFFFFFFF State.reset)).map (readReg .predFmt)) = some 0x103#32 := by
  decide

/-! ## Host program lines: the expansions of R132, computed by hand -/

/-- `wr PRED_SIZE, 0xFFFF0040` and `wr PRED_FMT, 0x103`; and the channel count 4, which PRED_FMT takes as 0 (R38). -/
theorem test_setFrame : expandLine (.setFrame 64 65535 3 1)
      = some [.write 0x10 0xFFFF0040, .write 0x14 0x103, .write 0x04 0x10000000]
    ∧ expandLine (.setFrame 1 1 4 0) = some [.write 0x10 0x10001, .write 0x14 4, .write 0x04 0x10000000] := by decide

theorem test_loadPayload_loadEsc : expandLine (.loadPayload [7, 0x1FF])
      = some [.write 0x4000000 7, .write 0x4000004 0x1FF, .write 0x34 2]
    ∧ expandLine (.loadEsc [-1, 0x7FFF])
      = some [.write 0x100000 0xFFFFFFFF, .write 0x100004 0x7FFF, .write 0x28 2, .write 0x2C 0] := by decide

/-! ## The predictor -/

/-- V-PRED-6. -/
theorem test_predInit_accepts : ((nextOf (exec .predInit { State.reset with predSize := 0xFFFF0040, predChannels := 3 })).map
    (fun t => (statusWord t, t.fw, t.fh))) = some (0x200#32, 64#16, 65535#16) := by decide

/-- V-PRED-2. -/
theorem test_predInit_rejects : ((nextOf (exec .predInit { State.reset with predSize := 0x00010041, predChannels := 1 })).map
    (fun t => (statusWord t, faultInfoWord t))) = some (0x21#32, 1#32) := by decide

/-- V-PRED-10, its last sample. -/
theorem test_predRes_last : ((nextOf (exec (.predRes 25) midFrame)).map
    (fun t => (t.result, statusWord t, readReg .predPos t, t.fixedCnt)))
      = some (0xFFFFFFFB#32, 0x400#32, 0x20000#32, 4#32) := by decide

/-- V-PRED-8. -/
theorem test_predRes_badPixel : ((nextOf (exec (.predRes 256) (framed 1 1 1 0))).map
    (fun t => (statusWord t, faultInfoWord t, faultCmdWord t))) = some (0x241#32, 0x100#32, 0x11000100#32) := by decide

/-- V-PRED-11, its last sample. -/
theorem test_predRec_last : ((nextOf (exec (.predRec 0xFFFB) midFrame)).map State.result) = some 25#32 := by decide

/-- V-PRED-13, its second sample: the 16-bit domain wraps. -/
theorem test_predRec_wraps : ((nextOf (exec (.predRec 1)
    { framed 2 1 1 1 with
      col := 1, fixedCnt := 1, mem := { Memory.unwritten with lb := [(0, 0x7FFF)], cp := [(0, 0)] } })).map State.result)
      = some 0xFFFF8000#32 := by decide

/-! ## The symbolizer -/

/-- V-SYM-24. -/
theorem test_symInit : ((nextOf (exec .symInit
    { State.reset with escLen := 2, mem := { Memory.unwritten with esc := [(0, 1), (1, 2)] } })).map
      (fun t => (t.escLen, tableGet t.mem.esc 1))) = some (0#19, some 2#16) := by decide

/-- V-SYM-7, V-SYM-6. -/
theorem test_symEnc_direct : ((nextOf (exec (.symEnc 0xF801) State.reset)).map State.result) = some 4093#32
    ∧ ((nextOf (exec (.symEnc 0x07FF) State.reset)).map State.result) = some 4094#32 := by decide

/-- V-SYM-9. -/
theorem test_symEnc_escape : ((nextOf (exec (.symEnc 0xF800) { State.reset with escLen := 1 })).map
    (fun t => (t.result, t.escLen, tableGet t.mem.esc 1))) = some (4095#32, 2#19, some 0xF800#16) := by decide

/-- V-SYM-17, V-SYM-16. -/
theorem test_symDec_direct : ((nextOf (exec (.symDec 4093) State.reset)).map State.result) = some 0xFFFFF801#32
    ∧ ((nextOf (exec (.symDec 4094) State.reset)).map State.result) = some 0x7FF#32 := by decide

/-- V-SYM-19. -/
theorem test_symDec_underflow : ((nextOf (exec (.symDec 4095) { State.reset with escLen := 4, escRd := 4 })).map
    (fun t => (statusWord t, faultInfoWord t))) = some (0x61#32, 4#32) := by decide

/-! ## The coder -/

/-- V-RANS-34's instance, RANS_B = 24. -/
theorem test_ransEncInit : ((nextOf (exec .ransEncInit { encoding with
    cfg := { Params.testVectors with ransB := 24 } })).map State.ransX) = some 0x1000000#32 := by decide

/-- P5's RANS_ENC with symbol 1 in place of 3 (the rows of V-RANS-3): one byte 00, X = 0x00100001. -/
theorem test_ransEnc : ((nextOf (exec (.ransEnc 1) encoding)).map
    (fun t => (t.ransX, t.pos, tableGet t.mem.pay 0, t.ransCnt))) = some (0x100001#32, 1#25, some 0#8, 1#32) := by decide

/-- V-RANS-23: the mode passes, the model is missing. -/
theorem test_ransEnc_noModel : ((nextOf (exec (.ransEnc 0) { encoding with modelValid := false })).map
    (fun t => (statusWord t, t.ransX, t.pos))) = some (0x1081#32, 0x10000#32, 0#25) := by decide

/-- V-RANS-3's last four bytes: 01 00 01 00 for X = 0x00010001. -/
theorem test_ransEncFlush : ((nextOf (exec .ransEncFlush { encoding with ransX := 0x10001, pos := 3 })).map
    (fun t => (t.pos, t.rmode, [3, 4, 5, 6].map (tableGet t.mem.pay))))
      = some (7#25, .idle, [some 1#8, some 0#8, some 1#8, some 0#8]) := by decide

/-- V-RANS-22. -/
theorem test_ransEncFlush_idle : ((nextOf (exec .ransEncFlush { encoding with rmode := .idle, pos := 4 })).map
    (fun t => (statusWord t, faultInfoWord t, t.pos))) = some (0x191#32, 0#32, 4#25) := by decide

/-- P2's RANS_DEC_INIT. -/
theorem test_ransDecInit : ((nextOf (exec .ransDecInit { decoding with rmode := .idle, pos := 7 })).map
    (fun t => (t.ransX, t.pos, t.rmode))) = some (0x10001#32, 3#25, .dec) := by decide

/-- V-RANS-25. -/
theorem test_ransDecInit_underflow : ((nextOf (exec .ransDecInit State.reset)).map statusWord) = some 0xB1#32 := by
  decide

/-- P2's first RANS_DEC. -/
theorem test_ransDec : ((nextOf (exec .ransDec decoding)).map
    (fun t => (t.result, t.ransX, t.pos, t.ransCnt))) = some (1#32, 0x100002#32, 1#25, 1#32) := by decide

/-- V-RANS-27 with symbol 1: a byte is missing, and nothing is consumed. -/
theorem test_ransDec_underflow : ((nextOf (exec .ransDec { decoding with pos := 0 })).map
    (fun t => (statusWord t, t.ransX, t.pos, t.result))) = some (0x21B1#32, 0x10001#32, 0#25, 0#32) := by decide

/-- R288's formula over a drawn frequency of 0: slot - cf is an integer (R11), here 0 + 1 - 5. -/
theorem test_decStep_negative : decStep 0x10001 0 5 1 = -4 := by decide

/-! ## Full tables -/

theorem tableGet_map_range' {w : Nat} (f : Nat → BitVec w) (n a i : Nat) :
    tableGet ((List.range' a n).map (fun i => (i, f i))) i = if a ≤ i ∧ i < a + n then some (f i) else none := by
  induction n generalizing a with
  | zero => simp
  | succ n ih =>
    simp only [List.range'_succ, List.map_cons, tableGet, ih]
    by_cases h : a = i
    · subst h; simp
    · simp only [h, if_false]
      congr 1
      simp only [eq_iff_iff]
      omega

theorem tableGet_fullTable {w n : Nat} (f : Nat → BitVec w) {i : Nat} (h : i < n) :
    tableGet (fullTable n f) i = some (f i) := by
  rw [fullTable, List.range_eq_range', tableGet_map_range']
  simp [h]

theorem fullTable_sorted {w : Nat} (n : Nat) (f : Nat → BitVec w) : tableSorted (fullTable n f) := by
  rw [fullTable, tableSorted, List.pairwise_map]
  exact List.pairwise_lt_range

theorem fullTable_below {w : Nat} (n : Nat) (f : Nat → BitVec w) : tableBelow n (fullTable n f) := by
  intro e he
  rw [fullTable] at he
  obtain ⟨i, hi, rfl⟩ := List.mem_map.1 he
  exact List.mem_range.1 hi

/-- A state in which FREQ[i] = f i and nothing else is written. -/
def withFreqs (f : Nat → Half) : State := { State.reset with mem := { Memory.unwritten with freq := fullTable 4096 f } }

theorem readFreq_withFreqs (f : Nat → Half) {i : Nat} (h : i < 4096) : readFreq (withFreqs f) i = f i :=
  readFreq_of_get (tableGet_fullTable f h)

theorem uniform_model : UniformModel uniform := by
  intro i hi
  exact ⟨.inr (tableGet_fullTable _ hi), tableGet_fullTable _ hi, tableGet_fullTable _ hi⟩

/-! ## States of the invariant -/

/-- A state at reset but for the tables, MODEL_VALID, RMODE and X. -/
def coderState (m : Memory) (valid : Bool) (mode : RMode) (x : Word) : State :=
  { State.reset with mem := m, modelValid := valid, rmode := mode, ransX := x }

theorem coder_inv {m : Memory} {valid : Bool} {mode : RMode} {x : Word} (hw : m.wf)
    (hb : m.inBounds Params.testVectors) (hm : valid = true → UniformModel (coderState m valid mode x)) :
    Inv (coderState m valid mode x) :=
  ⟨test_params_ok, hw, hb, Nat.zero_le _, Nat.zero_le _, Nat.zero_le _, hm, rfl, rfl, rfl, rfl, rfl, rfl, rfl, rfl⟩

theorem uniform_coder_inv (mode : RMode) (x : Word) : Inv (coderState uniform.mem true mode x) := by
  refine coder_inv ?_ ?_ (fun _ => uniform_model)
  · exact ⟨fullTable_sorted _ _, fullTable_sorted _ _, fullTable_sorted _ _, .nil, .nil, .nil, .nil⟩
  · refine ⟨fullTable_below _ _, fullTable_below _ _, fullTable_below _ _, ?_, ?_, ?_, ?_⟩ <;>
      simp [uniform, Memory.unwritten]

theorem uniform_inv : Inv uniform := uniform_coder_inv .idle 0

theorem uniform_written (i : Nat) (h : i < 4096) : tableGet uniform.mem.freq i ≠ none := by
  rw [show tableGet uniform.mem.freq i = some 1 from tableGet_fullTable _ h]; exact Option.some_ne_none _

theorem midFrame_position : PositionInFrame midFrame := by unfold PositionInFrame; decide

theorem midFrame_context : HoldsContext midFrame [10, 20, 30] := by
  refine ⟨by decide, ?_, ?_, ?_, ?_⟩
  · intro c j hc hj hp
    have hc : c = 0#2 := by have : c.toNat < 1 := hc; apply BitVec.eq_of_toNat_eq; simp; omega
    have hj : j = 0 := by
      have : j < 1 ∨ (j = 1 ∧ c.toNat < 0) := hp
      omega
    subst hc hj; decide
  · intro c j hc hj hp _
    have hc : c = 0#2 := by have : c.toNat < 1 := hc; apply BitVec.eq_of_toNat_eq; simp; omega
    have hj : j = 1 := by
      have h2 : j < 2 := hj
      have : ¬ (j < 1 ∨ (j = 1 ∧ c.toNat < 0)) := hp
      omega
    subst hc hj; decide
  · intro c hc _ _ _
    have hc : c = 0#2 := by have : c.toNat < 1 := hc; apply BitVec.eq_of_toNat_eq; simp; omega
    subst hc; decide
  · intro c hc; exact absurd hc (Nat.not_lt_zero _)

theorem midFrame_inv : Inv midFrame := by
  refine ⟨test_params_ok, ?_, ?_, by decide, by decide, by decide, (fun h => by cases h), ⟨by decide, ?_⟩⟩
  · exact ⟨.nil, .nil, .nil, .nil, .nil, by decide, by decide⟩
  · refine ⟨?_, ?_, ?_, ?_, ?_, ?_, ?_⟩ <;> simp [midFrame, framed, Memory.unwritten, State.reset, State.resetWith,
      Params.testVectors]
  · refine ⟨by unfold FrameLegal; decide, midFrame_position, ?_, ?_⟩
    · intro c j hc hj _
      have hc : c = 0#2 := by have : c.toNat < 1 := hc; apply BitVec.eq_of_toNat_eq; simp; omega
      have hj : j < 2 := hj
      subst hc
      rcases (by omega : j = 0 ∨ j = 1) with rfl | rfl
      · exact ⟨30, by decide, fun _ => by decide⟩
      · exact ⟨20, by decide, fun _ => by decide⟩
    · intro c hc _ _
      have hc : c = 0#2 := by have : c.toNat < 1 := hc; apply BitVec.eq_of_toNat_eq; simp; omega
      subst hc
      exact ⟨10, rfl, fun _ => by decide⟩

/-! ## Witnesses: for each statement with hypotheses, what meets them -/

/-- Both halves: a legal and an illegal word, with no record, and CLR_FAULT with one. -/
theorem witness_StepRunsTheDecodedCommand :
    (writing 4 0x40000000 State.reset).pending = [.write (State.reset.cfg.blockBase + 0x04) 4 0x40000000]
      ∧ State.reset.fault = none ∧ decode 0x40000000#32 = some .ransEncInit ∧ decode 0x40000001#32 = none
      ∧ held.fault ≠ none ∧ decode 0x01000000#32 = some .clrFault := by decide

theorem witness_HeldFaultDiscardsTheCommand :
    (writing 4 0 held).pending = [.write (held.cfg.blockBase + 0x04) 4 0] ∧ (writing 4 0 held).fault ≠ none
      ∧ (0#32 : Word) ≠ 0x01000000#32 ∧ (0#32 : Word) ≠ 0x02000000#32 ∧ State.reset.fault = none := by decide

theorem witness_FaultChangesOnlyTheRecord : ∃ t r, State.reset.fault = none ∧ exec .ransDec State.reset = .next t
    ∧ t.fault = some r := ⟨_, _, rfl, rfl, rfl⟩

theorem witness_HeldRecordIsNeverOverwritten :
    (∃ t r, held.fault = some r ∧ step (writing 4 0x10000000 held) = .next t) ∧
      (writing 4 0x02000000 held).pending = [.write (held.cfg.blockBase + 0x04) 4 0x02000000] :=
  ⟨⟨_, _, rfl, rfl⟩, rfl⟩

theorem witness_ResetLeavesEveryRegister :
    ({ held with pending := [.hardReset] } : State).pending = .hardReset :: [] := rfl

theorem witness_InvariantHoldsAtReset :
    Params.testVectors.legal = true ∧ ({ Params.testVectors with ransB := 24 } : Params).legal = true := by decide

/-- An encoder over the written uniform model whose port holds a RANS_ENC. -/
def encodingUniform : State := writing 4 (encode (.ransEnc 1)) (coderState uniform.mem true .enc 0x10000)

/-- A frame, an idle port, and a RANS_ENC inside the interval of an entry that is written. -/
theorem witness_StepKeepsTheInvariant : Inv midFrame ∧ (∃ t, step midFrame = .next t)
    ∧ Inv encodingUniform ∧ (∃ t, step encodingUniform = .next t) ∧ encodingUniform.rmode = .enc
    ∧ EncoderInterval encodingUniform ∧ NoDrawnFrequency encodingUniform := by
  have h := uniform_coder_inv .enc 0x10000
  exact ⟨midFrame_inv, ⟨_, rfl⟩, ⟨h.legal, h.memWf, h.memBounds, h.escLen, h.escRd, h.pos, h.model, h.predictor⟩,
    ⟨_, rfl⟩, rfl, fun _ => by decide, fun _ _ _ y _ => uniform_written _ y.isLt⟩

theorem witness_AdmittedRunsNeverStop : Inv State.reset ∧ PortAdmitted State.reset
    ∧ EventAdmitted Params.testVectors (.write 4 4 0x11000019) ∧ EventAdmitted Params.testVectors (.read 0x7FFFFFC 4) := by
  refine ⟨coder_inv (m := Memory.unwritten) (valid := false) (mode := .idle) (x := 0) ?_ ?_
    (fun h => by cases h), (fun e he => by cases he), ⟨4, rfl, rfl⟩, ⟨0x7FFFFFC, rfl, rfl⟩⟩
  · exact unwritten_wf
  · refine ⟨?_, ?_, ?_, ?_, ?_, ?_, ?_⟩ <;> simp [Memory.unwritten]

/-- The uniform model with every FREQ entry written. -/
theorem witness_EveryCommandCompletes : UniformModel uniform ∧ ∀ i < 4096, tableGet uniform.mem.freq i ≠ none :=
  ⟨uniform_model, uniform_written⟩

/-- A register, and the last entry of FREQ, CUM and LUT. -/
theorem witness_ReadsHaveNoSideEffect :
    (∃ t, step { State.reset with pending := [.read 0 4] } = .next t)
      ∧ targetAt uniform.cfg 0x08 = .reg .status
      ∧ (∀ i, targetAt uniform.cfg (0x4000 + 4 * 4095) = .freq i → tableGet uniform.mem.freq i ≠ none)
      ∧ (∀ i, targetAt uniform.cfg (0x8000 + 4 * 4095) = .cum i → tableGet uniform.mem.cum i ≠ none)
      ∧ (∀ i, targetAt uniform.cfg (0xC000 + 4 * 4095) = .lut i → tableGet uniform.mem.lut i ≠ none)
      ∧ ∃ t u, memRead (0x4000 + 4 * 4095) uniform = .next t ∧ memRead (0x4000 + 4 * 4095) t = .next u := by
  have key (o : Nat → Target) (ho : ∀ i j, o i = o j → i = j) {w : Nat} (f : Nat → BitVec w) (i : Nat)
      (h : o 4095 = o i) : tableGet (fullTable 4096 f) i ≠ none := by
    rw [← ho _ _ h, tableGet_fullTable f (by decide)]; exact Option.some_ne_none _
  exact ⟨⟨_, rfl⟩, rfl, fun i h => key .freq (fun _ _ h => Target.freq.inj h) _ i h,
    fun i h => key .cum (fun _ _ h => Target.cum.inj h) _ i h, fun i h => key .lut (fun _ _ h => Target.lut.inj h) _ i h,
    _, _, memRead_eq _ (by omega) (by omega), memRead_eq _ (by omega) (by omega)⟩

theorem witness_CapMiscHoldsTheParameters :
    ({ Params.testVectors with maxWidth := 65535, ransB := 24 } : Params).legal = true := by
  simp [Params.legal, Params.testVectors]

/-- Both accesses, a wrong size and a wrong offset, and the last offset of the window. -/
theorem witness_UnadmittedAccessIsRefused : (0x7FFFFFF : Nat) < 2 ^ 27 ∧ (0x7FFFFFF : Nat) % 4 ≠ 0 ∧ (2 : Nat) ≠ 4
    ∧ ({ State.reset with pending := [.read (State.reset.cfg.blockBase + 0x7FFFFFF) 4] } : State).pending
        = [.read (0 + 0x7FFFFFF) 4] := by decide

/-- The first and the last reserved word of each range of the instance with ESC_DEPTH 16, PAYLOAD_BYTES 256. -/
theorem witness_ReservedSpaceReadsZero : ∀ off ∈ [0x50, 0x3FFC, 0x10000, 0xFFFFC, 0x200000, 0x3FFFFFC, 0x100040,
    0x1FFFFC, 0x4000400, 0x7FFFFFC], off % 4 = 0 ∧
      ((0x50 ≤ off ∧ off < 0x4000) ∨ (0x10000 ≤ off ∧ off < 0x100000) ∨ (0x200000 ≤ off ∧ off < 0x4000000)
        ∨ (0x100000 + 4 * State.reset.cfg.escDepth ≤ off ∧ off < 0x200000)
        ∨ (0x4000000 + 4 * State.reset.cfg.payloadBytes ≤ off ∧ off < 0x8000000)) := by decide

theorem witness_FreqWindowStoresAndInvalidates : tableGet uniform.mem.freq 4095 = some 1 ∧ (4095 : Nat) < 4096 :=
  ⟨tableGet_fullTable _ (by decide), by decide⟩

theorem witness_CumAndLutWindowsAreReadOnly : tableGet uniform.mem.cum 4095 = some 4095#12
    ∧ tableGet uniform.mem.lut 4095 = some 4095#12 :=
  ⟨tableGet_fullTable _ (by decide), tableGet_fullTable _ (by decide)⟩

theorem witness_EscWindowSignExtends : 15 < State.reset.cfg.escDepth ∧ (15 : Nat) < 2 ^ 18
    ∧ tableGet [(15, 0x8000#16)] 15 = some 0x8000#16 := by decide

theorem witness_PayWindowHoldsBytes : 255 < State.reset.cfg.payloadBytes ∧ (255 : Nat) < 2 ^ 24
    ∧ tableGet decoding.mem.pay 1 = some 2#8 := by decide

/-- ESC_LEN and ESC_RD at 16 and 17, PAY_LEN at 256 and 257, in IDLE and in ENC. -/
theorem witness_WritableRegistersTakeLegalValues : State.reset.cfg.legal = true
    ∧ (16#32 : Word).toNat ≤ State.reset.cfg.escDepth ∧ State.reset.cfg.escDepth < (17#32 : Word).toNat
    ∧ State.reset.rmode = .idle ∧ (256#32 : Word).toNat ≤ State.reset.cfg.payloadBytes
    ∧ State.reset.cfg.payloadBytes < (257#32 : Word).toNat ∧ encoding.rmode ≠ .idle := by decide

/-- The branches of MED: V-MED-1, V-MED-3, V-MED-5. -/
theorem witness_MedStaysBetweenItsNeighbours : (25 : Int) ≥ max 10 20
    ∧ (5 : Int) < max 10 20 ∧ (5 : Int) ≤ min 10 20 ∧ min 10 20 < (15 : Int) ∧ (15 : Int) < max 10 20 := by decide

/-- Widths 0, 64, 65, heights 0, 1, channels 0 to 3. -/
theorem witness_PredInitLatchesOrRejects :
    let w (v : Word) : Nat := (v.extractLsb' 0 16).toNat; let h (v : Word) : Nat := (v.extractLsb' 16 16).toNat
    (1 ≤ w 0x10040 ∧ w 0x10040 ≤ State.reset.cfg.maxWidth) ∧ 1 ≤ h 0x10040 ∧ w 0x10000 = 0
      ∧ State.reset.cfg.maxWidth < w 0x10041 ∧ h 0x40 = 0
      ∧ ∀ c : BitVec 2, (c = 1 ∨ c = 3) ∨ (c = 0 ∨ c = 2) := by decide

theorem witness_PredResGivesTheWrappedResidual : midFrame.pstate = .active ∧ midFrame.fd = 0
    ∧ (255#16 : Half).toNat ≤ 255 ∧ 255 < (256#16 : Half).toNat ∧ State.reset.pstate = .off
    ∧ doneFrame.pstate = .done := by decide

theorem witness_PredRecReconstructs : midFrame.pstate = .active ∧ midFrame.fd = 0 ∧ (framed 2 1 1 1).pstate = .active
    ∧ (framed 2 1 1 1).fd = 1 ∧ State.reset.pstate = .off ∧ doneFrame.pstate = .done := by decide

/-- The last sample of a frame and one before it, by both commands. -/
theorem witness_PositionAdvancesInRasterOrder : midFrame.pstate = .active ∧ PositionInFrame midFrame
    ∧ (∃ t, exec (.predRes 25) midFrame = .next t) ∧ (∃ t, exec (.predRec 0xFFFB) midFrame = .next t)
    ∧ sampleIndex midFrame = 3 ∧ PositionInFrame (framed 2 2 1 0) ∧ sampleIndex (framed 2 2 1 0) = 0 := by
  refine ⟨rfl, midFrame_position, ⟨_, rfl⟩, ⟨_, rfl⟩, rfl, ?_, rfl⟩
  unfold PositionInFrame; decide

theorem witness_StoredSamplesFormTheContext : midFrame.pstate = .active ∧ PositionInFrame midFrame
    ∧ HoldsContext midFrame [10, 20, 30] ∧ (∃ t, exec (.predRes 25) midFrame = .next t)
    ∧ (∃ t, exec (.predRec 0xFFFB) midFrame = .next t)
    ∧ ∃ t, exec .predInit { State.reset with predSize := 0x10001, predChannels := 1 } = .next t ∧ t.fault = none :=
  ⟨rfl, midFrame_position, midFrame_context, ⟨_, rfl⟩, ⟨_, rfl⟩, _, rfl, rfl⟩

theorem witness_NeighboursAreTheCausalSamples : PositionInFrame midFrame ∧ HoldsContext midFrame [10, 20, 30]
    ∧ midFrame.col ≠ 0 ∧ midFrame.row ≠ 0 ∧ (framed 2 2 1 0).col = 0 ∧ (framed 2 2 1 0).row = 0 :=
  ⟨midFrame_position, midFrame_context, by decide⟩

theorem witness_ReconstructionInvertsResidual : Inv midFrame ∧ midFrame.pstate = .active ∧ midFrame.fd = 0
    ∧ (255#16 : Half).toNat ≤ 255 := ⟨midFrame_inv, by decide⟩

/-- PRED_SIZE and PRED_FMT of V-PRED-10. -/
def gridStart : State := { State.reset with predSize := 0x00020002, predChannels := 1 }

theorem witness_PredictorRoundTrip : gridStart.cfg.legal = true ∧ gridStart.fault = none
    ∧ (gridStart.predSize.extractLsb' 0 16).toNat = 2 ∧ (gridStart.predSize.extractLsb' 16 16).toNat = 2
    ∧ 2 ≤ gridStart.cfg.maxWidth ∧ gridStart.predChannels = 1
    ∧ [10#16, 20#16, 30#16, 25#16].length = 2 * 2 * gridStart.predChannels.toNat
    ∧ ∀ v ∈ [10#16, 20#16, 30#16, 25#16], v.toNat ≤ 255 := by
  refine ⟨test_params_ok, rfl, rfl, rfl, ?_, rfl, rfl, ?_⟩
  · decide
  · simp

/-- Residuals 2047, -2047, 2048, -2048 with ESC_LEN 15 and 16 of 16. -/
theorem witness_SymEncGivesSymbolOrEscape : (0x7FF#16 : Half).toInt = 2047 ∧ (0xF801#16 : Half).toInt = -2047
    ∧ 2047 < (0x800#16 : Half).toInt ∧ (0xF800#16 : Half).toInt < -2047
    ∧ (15#19).toNat < State.reset.cfg.escDepth ∧ State.reset.cfg.escDepth ≤ (16#19).toNat := by decide

/-- Symbols 4094, 4093, 4095 with ESC_RD below and at ESC_LEN. -/
theorem witness_SymDecGivesResidualOrEscape : (4094#12 : Sym).toNat < 4095 ∧ (4094#12 : Sym).toNat % 2 = 0
    ∧ (4093#12 : Sym).toNat % 2 = 1 ∧ (4095#12 : Sym).toNat = 4095
    ∧ (3#19).toNat < (4#19).toNat ∧ (4#19).toNat ≤ (4#19).toNat := by decide

theorem witness_SymbolizerRoundTrip : State.reset.cfg.legal = true ∧ State.reset.fault = none
    ∧ [0x7FFF#16, 1#16, 0x8000#16].countP (fun r => 4095 ≤ zigzag r.toInt) ≤ State.reset.cfg.escDepth := by decide

/-- V-MOD-1 and V-MOD-2. -/
theorem witness_ModelBuildAcceptsOnlyAllOnes : (∀ i < 4096, readFreq uniform i = 1)
    ∧ ∃ i < 4096, readFreq (withFreqs (fun i => if i = 5 then 0 else 1)) i ≠ 1 :=
  ⟨fun _ hi => readFreq_of_get (tableGet_fullTable _ hi), 5, by decide, by
    rw [readFreq_withFreqs _ (by decide)]; decide⟩

theorem map_range_const {f : Nat → Nat} {c : Nat} (n : Nat) (h : ∀ i < n, f i = c) :
    ((List.range n).map f).sum = n * c := by
  rw [List.map_congr_left (g := fun _ => c) (fun i hi => h i (List.mem_range.1 hi))]
  simp

/-- V-MOD-2, a table whose only zero is its last entry, and one whose entries are all 2. -/
theorem witness_ModelBuildReportsTheFirstProblem :
    (∀ z, z = 5 ∨ z = 4095 → z < 4096 ∧ readFreq (withFreqs (fun i => if i = z then 0 else 1)) z = 0
        ∧ ∀ i < z, readFreq (withFreqs (fun i => if i = z then 0 else 1)) i ≠ 0)
      ∧ (∀ i < 4096, readFreq (withFreqs (fun _ => 2)) i ≠ 0)
      ∧ ((List.range 4096).map (fun i => (readFreq (withFreqs (fun _ => 2)) i).toNat)).sum ≠ 4096 := by
  refine ⟨fun z hz => ?_, fun i hi => ?_, ?_⟩
  · have hz : z < 4096 := by omega
    refine ⟨hz, ?_, fun i hi => ?_⟩
    · rw [readFreq_withFreqs _ hz]; simp
    · rw [readFreq_withFreqs _ (by omega), if_neg (by omega)]; decide
  · rw [readFreq_withFreqs _ hi]; decide
  · rw [map_range_const (c := 2) 4096 (fun i hi => by rw [readFreq_withFreqs _ hi]; rfl)]
    decide

theorem witness_BuiltTablesTileTheSlots : (∀ f ∈ [1, 2, 4093], 1 ≤ f) ∧ [1, 2, 4093].sum ≤ 4096
    ∧ 1 < [1, 2, 4093].length ∧ ([1, 2, 4093].take 1).sum ≤ 2 ∧ 2 < ([1, 2, 4093].take 2).sum := by decide

theorem witness_RansEncInitStartsTheEncoder : State.reset.cfg.legal = true := by decide

/-- Symbol 4095 with one byte to push, at PAY_LEN 255 and 256, a frequency of 0, and the mode faults. -/
theorem witness_RansEncPushesAndUpdates : encoding.cfg.legal = true ∧ encoding.rmode = .enc ∧ encoding.modelValid = true
    ∧ 1 ≤ (readFreq encoding 4095).toNat
    ∧ encoding.ransX.toNat / 2 ^ (8 * 1) < (readFreq encoding 4095).toNat * 2 ^ (encoding.cfg.ransB - 4)
    ∧ (∀ j < 1, (readFreq encoding 4095).toNat * 2 ^ (encoding.cfg.ransB - 4) ≤ encoding.ransX.toNat / 2 ^ (8 * j))
    ∧ (encoding.ransX.toNat / 2 ^ 8) * 4096 + 0 + 4095 < 2 ^ 32
    ∧ (readFreq { encoding with mem := { encoding.mem with freq := [(4095, 0)] } } 4095).toNat = 0
    ∧ (255#25).toNat + 1 ≤ encoding.cfg.payloadBytes ∧ encoding.cfg.payloadBytes < (256#25).toNat + 1
    ∧ decoding.rmode ≠ .enc ∧ State.reset.rmode ≠ .enc
    ∧ ({ encoding with modelValid := false } : State).modelValid = false := by decide

theorem witness_RansEncFlushAppendsTheState : encoding.cfg.legal = true ∧ encoding.rmode = .enc
    ∧ (252#25).toNat + 4 ≤ encoding.cfg.payloadBytes ∧ encoding.cfg.payloadBytes < (253#25).toNat + 4
    ∧ decoding.rmode ≠ .enc ∧ State.reset.rmode ≠ .enc := by decide

theorem witness_RansDecInitReadsTheTail : 4 ≤ (4#25).toNat ∧ (3#25).toNat < 4 := by decide

/-- P2's first RANS_DEC, which pops two bytes, and the same state with no byte. -/
theorem witness_RansDecPopsAndUpdates : decoding.cfg.legal = true ∧ decoding.pos.toNat ≤ decoding.cfg.payloadBytes
    ∧ decoding.rmode = .dec ∧ decoding.modelValid = true ∧ decoding.ransX.toNat % 4096 = 1
    ∧ readLut decoding 1 = 1 ∧ readCum decoding 1 = 1 ∧ (readFreq decoding 1).toNat = 1
    ∧ readPay decoding 2 = 0 ∧ readPay decoding 1 = 2
    ∧ ((1 * (decoding.ransX.toNat / 4096) : Nat) : Int) + (1 - 1) = 16 ∧ (16 : Int) < 2 ^ decoding.cfg.ransB
    ∧ (16 * 256 + 0 : Int) < 2 ^ decoding.cfg.ransB ∧ (2 : Int) ^ decoding.cfg.ransB ≤ (16 * 256 + 0) * 256 + 2
    ∧ ((16 * 256 + 0) * 256 + 2 : Int) < 2 ^ 32 ∧ 2 ≤ decoding.pos.toNat
    ∧ (16 : Int) < 2 ^ ({ decoding with pos := 0 } : State).cfg.ransB
    ∧ encoding.rmode ≠ .dec ∧ State.reset.rmode ≠ .dec := by decide

/-- Both ends of the interval and of the symbol's range. -/
theorem witness_EncoderStaysInItsInterval : ∀ x ∈ [2 ^ 16, 2 ^ 24 - 1], ∀ cf ∈ [0, 4095],
    Params.testVectors.legal = true ∧ 2 ^ Params.testVectors.ransB ≤ x ∧ x < 2 ^ (Params.testVectors.ransB + 8)
      ∧ 1 ≤ 1 ∧ cf + 1 ≤ 4096 := by decide

/-- V-RANS-3's second step: X = 0x00010000 + ... renormalised by one byte. -/
theorem witness_DecodeStepInvertsEncodeStep : Params.testVectors.legal = true
    ∧ 2 ^ Params.testVectors.ransB ≤ 0x10001 ∧ 0x10001 < 2 ^ (Params.testVectors.ransB + 8)
    ∧ (encRenorm (Params.testVectors.xmax 1) maxShifts 0x10001).2 = [1#8] ∧ (1 : Nat) + 1 ≤ 4096 := by decide

theorem witness_RansRoundTrip : Inv uniform ∧ uniform.fault = none ∧ uniform.modelValid = true
    ∧ (∀ y ∈ [1#12, 2#12], tableGet uniform.mem.freq y.toNat ≠ none)
    ∧ 4 + [1#12, 2#12].length + [1#12, 2#12].length / 2 ≤ uniform.cfg.payloadBytes := by
  exact ⟨uniform_inv, rfl, rfl, fun y _ => uniform_written _ y.isLt, by decide⟩

theorem witness_CommandsThatStoreNothing : (∃ t, exec .nop held = .next t) ∧ (∃ t, exec .clrFault held = .next t)
    ∧ (∃ t, exec .softReset decoding = .next t) ∧ (∃ t, exec .predInit gridStart = .next t)
    ∧ (∃ t, exec .symInit midFrame = .next t) ∧ (∃ t, exec (.symDec 4095) { midFrame with escLen := 1 } = .next t)
    ∧ (∃ t, exec .ransEncInit decoding = .next t) ∧ (∃ t, exec .ransDecInit decoding = .next t)
    ∧ ∃ t, exec .ransDec decoding = .next t :=
  ⟨⟨_, rfl⟩, ⟨_, rfl⟩, ⟨_, rfl⟩, ⟨_, rfl⟩, ⟨_, rfl⟩, ⟨_, rfl⟩, ⟨_, rfl⟩, ⟨_, rfl⟩, _, rfl⟩

theorem witness_PredictorCommandsFrame : (∃ t, exec (.predRes 25) midFrame = .next t)
    ∧ (∃ t, exec (.predRec 25) midFrame = .next t) ∧ ∃ t, exec .predInit midFrame = .next t :=
  ⟨⟨_, rfl⟩, ⟨_, rfl⟩, _, rfl⟩

theorem witness_SymbolizerCommandsFrame : (∃ t, exec .symInit midFrame = .next t)
    ∧ (∃ t, exec (.symEnc 3000) midFrame = .next t) ∧ ∃ t, exec (.symDec 4095) { midFrame with escLen := 1 } = .next t :=
  ⟨⟨_, rfl⟩, ⟨_, rfl⟩, _, rfl⟩

theorem witness_ModelAndCoderCommandsFrame : (∃ t, exec .modelBuild uniform = .next t)
    ∧ (∃ t, exec .ransEncInit uniform = .next t) ∧ (∃ t, exec (.ransEnc 1) encoding = .next t)
    ∧ (∃ t, exec .ransEncFlush encoding = .next t) ∧ (∃ t, exec .ransDecInit decoding = .next t)
    ∧ ∃ t, exec .ransDec decoding = .next t :=
  ⟨⟨_, rfl⟩, ⟨_, rfl⟩, ⟨_, rfl⟩, ⟨_, rfl⟩, ⟨_, rfl⟩, _, rfl⟩

/-- The 2 x 1 record of 95_test_vectors.md section 6.3. -/
def escapeRecord : Record :=
  { mode := 1, width := 2, height := 1, channels := 1, symbolCount := 2
    freqs := List.replicate 4096 1
    escapes := [0x7FFF]
    payload := [0, 2, 0, 0xFF, 0x0F, 1, 0] }

theorem witness_ContainerRoundTrip : Params.testVectors.legal = true
    ∧ escapeRecord.acceptable Params.testVectors = true := by
  have h : (escapeRecord.freqs.length == 4096) = true := by
    rw [show escapeRecord.freqs.length = 4096 from List.length_replicate]; rfl
  refine ⟨test_params_ok, ?_⟩
  unfold Record.acceptable
  rw [h]
  decide

end Sys2Proof.Tests
end

section
/-! The legal parameters (00_scope.md R9) and values in registers narrower than a word. -/
namespace Sys2Proof.Machine

/-! ## The legal parameters -/

theorem ransB_of_legal {c : Params} (h : c.legal = true) : c.ransB = 16 ∨ c.ransB = 24 := by
  simp only [Params.legal, Bool.and_eq_true, Bool.or_eq_true, beq_iff_eq] at h
  obtain ⟨⟨⟨⟨hb, -⟩, -⟩, -⟩, -⟩ := h
  exact hb

theorem maxWidth_of_legal {c : Params} (h : c.legal = true) : 1 ≤ c.maxWidth ∧ c.maxWidth ≤ 65535 := by
  simp only [Params.legal, Bool.and_eq_true, decide_eq_true_eq] at h
  obtain ⟨⟨⟨⟨-, hw⟩, -⟩, -⟩, -⟩ := h
  exact hw

theorem payloadBytes_of_legal {c : Params} (h : c.legal = true) : 4 ≤ c.payloadBytes ∧ c.payloadBytes ≤ 2 ^ 24 := by
  simp only [Params.legal, Bool.and_eq_true, decide_eq_true_eq] at h
  obtain ⟨⟨⟨-, hp⟩, -⟩, -⟩ := h
  exact hp

theorem escDepth_of_legal {c : Params} (h : c.legal = true) : 1 ≤ c.escDepth ∧ c.escDepth ≤ 2 ^ 18 := by
  simp only [Params.legal, Bool.and_eq_true, decide_eq_true_eq] at h
  obtain ⟨⟨-, he⟩, -⟩ := h
  exact he

/-! ## Values in registers -/

theorem toNat_ofNat_of_lt {w n : Nat} (h : n < 2 ^ w) : (BitVec.ofNat w n).toNat = n :=
  (BitVec.toNat_ofNat n w).trans (Nat.mod_eq_of_lt h)

/-- A register that takes a bounded number stays in the bound, also where the number is too wide for it. -/
theorem toNat_ofNat_le {w n m : Nat} (h : n ≤ m) : (BitVec.ofNat w n).toNat ≤ m :=
  (BitVec.toNat_ofNat n w).trans_le ((Nat.mod_le _ _).trans h)

theorem toNat_setWidth_of_lt {w k : Nat} {v : BitVec w} (h : v.toNat < 2 ^ k) : (v.setWidth k).toNat = v.toNat :=
  (BitVec.toNat_setWidth k v).trans (Nat.mod_eq_of_lt h)

/-- A register that takes a bounded word stays in the bound, also where it is narrower. -/
theorem toNat_setWidth_le {w k n : Nat} {v : BitVec w} (h : v.toNat ≤ n) : (v.setWidth k).toNat ≤ n :=
  (BitVec.toNat_setWidth k v).trans_le ((Nat.mod_le _ _).trans h)

theorem toNat_add_one_le {n : Nat} {x : BitVec 19} (h : x.toNat < n) : (x + 1).toNat ≤ n := by
  rw [BitVec.toNat_add]
  exact (Nat.mod_le _ _).trans h

theorem ofBool_eq_one_iff {b : Bool} : BitVec.ofBool b = 1 ↔ b = true := by cases b <;> decide

end Sys2Proof.Machine
end

section
/-! What a word that decodes is made of (30_encoding.md R121 to R130). -/
namespace Sys2Proof

/-- A low field splits into its upper and its lower part. -/
theorem extractLsb'_split (w : Word) (a b : Nat) :
    w.extractLsb' 0 (a + b) = w.extractLsb' b a ++ w.extractLsb' 0 b := by
  ext i hi
  simp only [BitVec.getElem_append, BitVec.getElem_extractLsb']
  split
  · simp
  · rw [Nat.zero_add, Nat.add_sub_cancel' (by omega)]

/-- A word is its opcode followed by its low 24 bits (R121). -/
theorem opField_append_low (w : Word) : opField w ++ w.extractLsb' 0 24 = w :=
  (extractLsb'_split w 8 24).symm.trans BitVec.extractLsb'_eq_self

theorem formatN_eq_some {w : Word} {i j : Instr} (h : formatN w i = some j) :
    w.extractLsb' 0 24 = 0#24 ∧ i = j := by
  unfold formatN at h
  split at h
  · exact ⟨‹_›, by simpa using h⟩
  · cases h

theorem formatV_eq_some {w : Word} {i : Half → Instr} {j : Instr} (h : formatV w i = some j) :
    w.extractLsb' 0 24 = 0#8 ++ val16Field w ∧ i (val16Field w) = j := by
  unfold formatV at h
  split at h
  · rename_i hz
    rw [← hz]
    exact ⟨extractLsb'_split w 8 16, by simpa using h⟩
  · cases h

theorem formatS_eq_some {w : Word} {i : Sym → Instr} {j : Instr} (h : formatS w i = some j) :
    w.extractLsb' 0 24 = 0#12 ++ sym12Field w ∧ i (sym12Field w) = j := by
  unfold formatS at h
  split at h
  · rename_i hz
    rw [← hz]
    exact ⟨extractLsb'_split w 12 12, by simpa using h⟩
  · cases h

/-- A word that decodes to a command is that command's word (R126, R130). -/
theorem encode_of_decode {w : Word} {i : Instr} (h : decode w = some i) : encode i = w := by
  unfold decode at h
  split at h
  case h_16 => cases h
  all_goals
    rename_i hop
    rw [← opField_append_low w, hop]
  case h_5 | h_6 | h_8 =>
    obtain ⟨hw, rfl⟩ := formatV_eq_some h
    rw [hw]
    exact BitVec.append_assoc
  case h_9 | h_12 =>
    obtain ⟨hw, rfl⟩ := formatS_eq_some h
    rw [hw]
    exact BitVec.append_assoc
  all_goals
    obtain ⟨hw, rfl⟩ := formatN_eq_some h
    rw [hw]
    rfl
end Sys2Proof
end

section
/-! The encoder's arithmetic keeps the state interval (44_rans.md R282, R283, R286). -/
namespace Sys2Proof.Machine

/-- EncRenorm ends below its bound when it may make enough shifts (R282). -/
theorem encRenorm_lt {bound n x : Nat} (h : x < bound * 2 ^ (8 * n)) : (encRenorm bound n x).1 < bound := by
  induction n generalizing x with
  | zero => simpa [encRenorm] using h
  | succ n ih =>
    rw [encRenorm]
    split
    · exact ih (Nat.div_lt_of_lt_mul (by rw [Nat.mul_add, Nat.pow_add, ← Nat.mul_assoc] at h; omega))
    · omega

/-- EncRenorm shifts no further than one byte below its bound (R286). -/
theorem le_encRenorm {bound n x lo : Nat} (hb : lo * 2 ^ 8 ≤ bound) (h : lo ≤ x) : lo ≤ (encRenorm bound n x).1 := by
  induction n generalizing x with
  | zero => exact h
  | succ n ih =>
    rw [encRenorm]
    split
    · exact ih (by omega)
    · exact h

/-- EncStep takes a renormalised state into the state interval (R283, R286). -/
theorem encStep_mem_interval {q x f cf : Nat} (hf : 1 ≤ f) (hcf : cf + f ≤ 4096) (hlo : f * q ≤ x)
    (hhi : x < f * (q * 2 ^ 8)) : q * 4096 ≤ encStep x f cf ∧ encStep x f cf < q * 4096 * 2 ^ 8 := by
  have hdiv : q ≤ x / f := (Nat.le_div_iff_mul_le hf).2 (by rwa [Nat.mul_comm])
  have hdiv' : x / f < q * 2 ^ 8 := Nat.div_lt_of_lt_mul hhi
  have hmod : x % f < f := Nat.mod_lt x hf
  unfold encStep Config.scale
  constructor <;> omega

/-- One encoding step keeps the state interval, for any symbol of any model (R286). -/
theorem encStep_encRenorm_mem_interval {c : Params} {x f cf : Nat} (hc : c.legal = true) (hlo : c.low ≤ x)
    (hhi : x < c.low * 2 ^ 8) (hf : 1 ≤ f) (hcf : cf + f ≤ 4096) :
    c.low ≤ encStep (encRenorm (c.xmax f) maxShifts x).1 f cf
      ∧ encStep (encRenorm (c.xmax f) maxShifts x).1 f cf < c.low * 2 ^ 8 := by
  have hB := ransB_of_legal hc
  obtain ⟨q, hq, hx⟩ : ∃ q, c.low = q * 4096 ∧ c.xmax f = f * (q * 2 ^ 8) := by
    rcases hB with h | h <;> simp only [Params.low, Params.xmax, h]
    · exact ⟨2 ^ 4, rfl, rfl⟩
    · exact ⟨2 ^ 12, rfl, rfl⟩
  have hq0 : 1 ≤ q := by rcases hB with h | h <;> simp only [Params.low, h] at hq <;> omega
  rw [hq] at hlo hhi ⊢
  rw [hx]
  refine encStep_mem_interval hf hcf (le_encRenorm (by rw [Nat.mul_assoc]) ?_) (encRenorm_lt ?_)
  · calc f * q ≤ 4096 * q := Nat.mul_le_mul_right q (by omega)
      _ ≤ x := by omega
  · have : q ≤ f * q := Nat.le_mul_of_pos_left q hf
    calc x < q * (4096 * 2 ^ 8) := by rwa [← Nat.mul_assoc]
      _ ≤ f * q * (2 ^ 8 * 2 ^ 32) := Nat.mul_le_mul this (by norm_num)
      _ = f * (q * 2 ^ 8) * 2 ^ (8 * maxShifts) := by ring

end Sys2Proof.Machine
end

section
/-! A MODEL_BUILD that succeeds builds the uniform model (43_model.md R251, R253). -/
namespace Sys2Proof.Machine

/-- Over frequencies that are all 1 the two tables of MODEL_BUILD are one table (R251, R253). -/
theorem buildLut_replicate_one (n i : Nat) : buildLut (List.replicate n 1) i i = buildCum (List.replicate n 1) i i := by
  induction n generalizing i with
  | zero => rfl
  | succ n ih => simp [List.replicate_succ, buildLut, buildCum, ih]

/-- Over frequencies that are all 1, CUM[i] is i (R253). -/
theorem tableGet_buildCum_replicate_one {n i j : Nat} (hij : i ≤ j) (hj : j < i + n) :
    tableGet (buildCum (List.replicate n 1) i i) j = some (BitVec.ofNat 12 j) := by
  induction n generalizing i with
  | zero => omega
  | succ n ih =>
    rw [List.replicate_succ, buildCum, tableGet]
    split
    · subst_vars; rfl
    · exact ih (by omega) (by omega)

/-- Numbers that are at least 1 and sum to their count are all 1. -/
theorem eq_one_of_sum_eq_length {fs : List Nat} (h1 : ∀ f ∈ fs, 1 ≤ f) (hs : fs.sum = fs.length) : ∀ f ∈ fs, f = 1 := by
  induction fs with
  | nil => simp
  | cons f fs ih =>
    obtain ⟨hf, hfs⟩ := List.forall_mem_cons.1 h1
    have hle : fs.length ≤ fs.sum := List.length_le_sum_of_one_le fs hfs
    simp only [List.sum_cons, List.length_cons] at hs
    exact List.forall_mem_cons.2 ⟨by omega, ih hfs (by omega)⟩

theorem length_allFreqs (s : State) : (allFreqs s).length = 4096 := by simp [allFreqs]

/-- MODEL_BUILD's two checks leave only the table of ones (R253). -/
theorem readFreq_eq_one_of_accepted {s : State} (hz : lowestZero s = none) (hs : (allFreqs s).sum = 4096) :
    ∀ i < 4096, (readFreq s i).toNat = 1 := by
  have hpos : ∀ f ∈ allFreqs s, 1 ≤ f := by
    simp only [lowestZero, List.find?_eq_none, List.mem_range, beq_iff_eq] at hz
    simp only [allFreqs, List.mem_map, List.mem_range, forall_exists_index, and_imp, forall_apply_eq_imp_iff₂]
    exact fun i hi => Nat.one_le_iff_ne_zero.2 (hz i hi)
  intro i hi
  refine eq_one_of_sum_eq_length hpos (by rw [hs, length_allFreqs]) _ ?_
  exact List.mem_map.2 ⟨i, List.mem_range.2 hi, rfl⟩

theorem allFreqs_eq_replicate {s : State} (h : ∀ i < 4096, (readFreq s i).toNat = 1) :
    allFreqs s = List.replicate 4096 1 := by
  refine List.eq_replicate_iff.2 ⟨length_allFreqs s, ?_⟩
  simp only [allFreqs, List.mem_map, List.mem_range, forall_exists_index, and_imp, forall_apply_eq_imp_iff₂]
  exact h

theorem get_or_eq_readFreq (s : State) (i : Nat) :
    tableGet s.mem.freq i = none ∨ tableGet s.mem.freq i = some (readFreq s i) := by
  cases h : tableGet s.mem.freq i with
  | none => exact .inl rfl
  | some v => exact .inr (by rw [readFreq_of_get h])

/-- A MODEL_BUILD that succeeds leaves the uniform model (R253). -/
theorem uniformModel_buildTables {s : State} (hz : lowestZero s = none) (hs : (allFreqs s).sum = 4096) :
    UniformModel (buildTables s) := by
  have hone := readFreq_eq_one_of_accepted hz hs
  intro i hi
  rw [buildTables_mem, allFreqs_eq_replicate hone, buildLut_replicate_one]
  have hcum := tableGet_buildCum_replicate_one (Nat.zero_le i) (n := 4096) (by omega)
  refine ⟨?_, hcum, hcum⟩
  rw [← show readFreq s i = 1 from BitVec.eq_of_toNat_eq (hone i hi)]
  exact get_or_eq_readFreq s i

end Sys2Proof.Machine
end

section
/-! How the predictor moves through a frame, and what it has written of the next sample's context (41_predictor.md R180,
R186, R187). -/
namespace Sys2Proof.Machine

/-! ## Places of the raster -/

theorem channel_eq_iff {c d : BitVec 2} : c = d ↔ c.toNat = d.toNat := BitVec.toNat_inj.symm

/-- The three ways a position inside the frame moves, every counter as a number (R187). -/
theorem advance_toNat {s : State} (h : PositionInFrame s) :
    (s.ch.toNat + 1 ≠ s.fc.toNat ∧ (advance s).row.toNat = s.row.toNat ∧ (advance s).col.toNat = s.col.toNat
        ∧ (advance s).ch.toNat = s.ch.toNat + 1)
      ∨ (s.ch.toNat + 1 = s.fc.toNat ∧ s.col.toNat + 1 ≠ s.fw.toNat ∧ (advance s).row.toNat = s.row.toNat
        ∧ (advance s).col.toNat = s.col.toNat + 1 ∧ (advance s).ch.toNat = 0)
      ∨ (s.ch.toNat + 1 = s.fc.toNat ∧ s.col.toNat + 1 = s.fw.toNat ∧ (advance s).row.toNat = s.row.toNat + 1
        ∧ (advance s).col.toNat = 0 ∧ (advance s).ch.toNat = 0) := by
  rcases advance_cases h with ⟨hfc, hr, hc, hk, -⟩ | ⟨hfc, hfw, hr, hc, hk, -⟩ | ⟨hfc, hfw, hr, hc, hk, -⟩
  · exact .inl ⟨hfc, congrArg _ hr, congrArg _ hc, hk⟩
  · exact .inr (.inl ⟨hfc, hfw, congrArg _ hr, hc, congrArg _ hk⟩)
  · exact .inr (.inr ⟨hfc, hfw, hr, congrArg _ hc, congrArg _ hk⟩)

/-- A sample command moves the flat index by one (R187). -/
theorem sampleIndex_advance {s : State} (h : PositionInFrame s) : sampleIndex (advance s) = sampleIndex s + 1 := by
  unfold sampleIndex
  rw [advance_fw, advance_fc]
  rcases advance_toNat h with ⟨-, hr, hc, hk⟩ | ⟨hfc, -, hr, hc, hk⟩ | ⟨hfc, hfw, hr, hc, hk⟩
  · rw [hr, hc, hk, Nat.add_assoc]
  · rw [hr, hc, hk, ← hfc]; ring
  · rw [hr, hc, hk, ← hfc, ← hfw]; ring

/-- Where a sample command leaves the predictor: at a next sample of the frame, or DONE behind its last row (R187). -/
theorem advance_active_or_done {s : State} (ha : s.pstate = .active) (h : PositionInFrame s) :
    ((advance s).pstate = .active ∧ PositionInFrame (advance s))
      ∨ ((advance s).pstate = .done ∧ (advance s).row = s.fh ∧ (advance s).col = 0 ∧ (advance s).ch = 0) := by
  have hplace := advance_toNat h
  obtain ⟨hrow, hcol, hch⟩ := id h
  unfold PositionInFrame
  rw [advance_fh, advance_fw, advance_fc]
  rcases advance_cases h with ⟨-, hr, -, -, hp⟩ | ⟨-, -, hr, -, -, hp⟩ | ⟨hfc, hfw, hr, hc, hk, hp⟩
  · exact .inl ⟨hp.trans ha, by rw [hr] at hplace ⊢; omega⟩
  · exact .inl ⟨hp.trans ha, by rw [hr] at hplace ⊢; omega⟩
  · by_cases hlast : s.row.toNat + 1 = s.fh.toNat
    · exact .inr ⟨hp.trans (if_pos hlast), BitVec.eq_of_toNat_eq (hr.trans hlast), hc, hk⟩
    · exact .inl ⟨hp.trans ((if_neg hlast).trans ha), by omega⟩

/-- Which samples of its row a sample command leaves passed: those passed before and the one stored; where the row ends
none of the next row, and all of the row left were passed or are the one stored (R180, R187). -/
theorem advance_passed {s : State} (h : PositionInFrame s) :
    ((advance s).row.toNat = s.row.toNat ∧ ∀ (c : BitVec 2) (j : Nat), c.toNat < s.fc.toNat →
        (Passed (advance s) c j ↔ Passed s c j ∨ (c = s.ch ∧ j = s.col.toNat)))
      ∨ ((advance s).row.toNat = s.row.toNat + 1 ∧ (∀ c j, ¬ Passed (advance s) c j)
        ∧ ∀ (c : BitVec 2) (j : Nat), c.toNat < s.fc.toNat → j < s.fw.toNat →
          Passed s c j ∨ (c = s.ch ∧ j = s.col.toNat)) := by
  unfold Passed
  simp only [channel_eq_iff]
  rcases advance_toNat h with ⟨-, hr, hc, hk⟩ | ⟨hfc, -, hr, hc, hk⟩ | ⟨hfc, hfw, hr, hc, hk⟩
  · exact .inl ⟨hr, fun c j hcj => by omega⟩
  · exact .inl ⟨hr, fun c j hcj => by omega⟩
  · exact .inr ⟨hr, fun c j => by omega, fun c j hc hj => by omega⟩

/-! ## The written context -/

theorem passed_storeSample {v : Int} {s : State} {c : BitVec 2} {j : Nat} :
    Passed (storeSample v s) c j ↔ Passed s c j := Iff.rfl

theorem inDomain_advance_storeSample {v : Int} {s : State} {x : Half} :
    InDomain (advance (storeSample v s)) x ↔ InDomain s x := by simp [InDomain]

/-- In a row below the first, what a sample command copies to the above-left register is written (R186). -/
theorem readLine_written {s : State} (h : PositionInFrame s) (hctx : ContextWritten s) (hrow : 0 < s.row.toNat) :
    InDomain s (readLine s s.ch s.col.toNat) := by
  obtain ⟨-, hcol, hch⟩ := h
  obtain ⟨x, hx, hd⟩ := hctx.1 s.ch s.col.toNat hch hcol (.inl hrow)
  rwa [readLine_of_get hx]

/-- A sample command keeps the context of the next sample written, when the value it stores is one of the frame's
domain (R59, R60, R186). -/
theorem contextWritten_advance_storeSample {s : State} {v : Int} (h : PositionInFrame s) (hctx : ContextWritten s)
    (hv : InDomain s (u16 v)) : ContextWritten (advance (storeSample v s)) := by
  obtain ⟨hline, habove⟩ := id hctx
  have hmove := advance_passed (s := storeSample v s) h
  simp only [passed_storeSample, storeSample_row, storeSample_col, storeSample_ch, storeSample_fc,
    storeSample_fw] at hmove
  unfold ContextWritten
  simp only [advance_fc, advance_fw, storeSample_fc, storeSample_fw, advance_mem, inDomain_advance_storeSample]
  refine ⟨fun c j hc hj hneed => ?_, fun c hc hrow hneed => ?_⟩
  · rw [storeSample_line v s (lt_trans hj s.fw.isLt)]
    by_cases hhere : c = s.ch ∧ j = s.col.toNat
    · exact ⟨u16 v, if_pos hhere, hv⟩
    · rw [if_neg hhere]
      refine hline c j hc hj ?_
      rcases hmove with ⟨hr, hpass⟩ | ⟨-, -, hall⟩
      · rw [hr, hpass c j hc] at hneed
        exact hneed.imp_right (Or.resolve_right · hhere)
      · exact .inr ((hall c j hc hj).resolve_right hhere)
  · rw [storeSample_aboveLeft]
    have hneed : Passed (advance (storeSample v s)) c 0 := by unfold Passed; omega
    rcases hmove with ⟨hr, hpass⟩ | ⟨-, hnone, -⟩
    · rw [hr] at hrow
      by_cases hhere : c = s.ch
      · exact ⟨_, if_pos hhere, readLine_written h hctx hrow⟩
      · rw [if_neg hhere]
        refine habove c hc hrow ?_
        have := ((hpass c 0 hc).1 hneed).resolve_right (hhere ·.1)
        unfold Passed at this
        omega
    · exact absurd hneed (hnone c 0)

end Sys2Proof.Machine
end

section
/-! The invariant is kept by every operation of the block. -/
namespace Sys2Proof.Machine

/-! ## The predictor's clause -/

theorem predictorOk_iff_of_active {s : State} (h : s.pstate = .active) : PredictorOk s ↔
    s.fixedCnt = BitVec.ofNat 32 (sampleIndex s) ∧ FrameLegal s ∧ PositionInFrame s ∧ ContextWritten s := by
  unfold PredictorOk; rw [h]

theorem predictorOk_iff_of_done {s : State} (h : s.pstate = .done) : PredictorOk s ↔
    s.fixedCnt = BitVec.ofNat 32 (sampleIndex s) ∧ FrameLegal s ∧ s.row = s.fh ∧ s.col = 0 ∧ s.ch = 0 := by
  unfold PredictorOk; rw [h]

theorem predictorOk_resetWith (c : Params) : PredictorOk (State.resetWith c) :=
  ⟨rfl, rfl, rfl, rfl, rfl, rfl, rfl, rfl⟩

/-- The predictor's clause speaks of the predictor, the line buffer, the above-left registers and MAX_WIDTH only. -/
theorem PredictorOk.of_same {s t : State} (h : PredictorOk s) (hp : SamePredictor s t) (hcfg : t.cfg = s.cfg)
    (hlb : t.mem.lb = s.mem.lb) (hcp : t.mem.cp = s.mem.cp) : PredictorOk t := by
  obtain ⟨hrow, hcol, hch, hcnt, hfw, hfh, hfc, hfd, hps⟩ := hp
  unfold PredictorOk sampleIndex FrameLegal PositionInFrame ContextWritten Passed InDomain
  rw [hrow, hcol, hch, hcnt, hfw, hfh, hfc, hfd, hps, hcfg, hlb, hcp]
  exact h

/-- A configuration without a problem is a legal frame (R183). -/
theorem frame_of_configProblem_eq_none {c : Params} {w h : Half} {n : BitVec 2} (hp : configProblem c w h n = none) :
    (1 ≤ w.toNat ∧ w.toNat ≤ c.maxWidth) ∧ 1 ≤ h.toNat ∧ (n = 1 ∨ n = 3) := by
  unfold configProblem at hp
  split at hp
  · cases hp
  · rename_i hw
    split at hp
    · cases hp
    · rename_i hh
      split at hp
      · cases hp
      · rename_i hn
        have hw0 : w.toNat ≠ 0 := fun h0 => hw (.inl (BitVec.eq_of_toNat_eq h0))
        have hh0 : h.toNat ≠ 0 := fun h0 => hh (BitVec.eq_of_toNat_eq h0)
        exact ⟨by omega, by omega, by tauto⟩

/-- A frame starts at its first sample, with no sample before it (R183). -/
theorem predictorOk_startFrame {s : State}
    (h : configProblem s.cfg (widthField s.predSize) (heightField s.predSize) s.predChannels = none) :
    PredictorOk (startFrame s) := by
  obtain ⟨⟨hw, hmax⟩, hh, hn⟩ := frame_of_configProblem_eq_none h
  have hn0 : 0 < s.predChannels.toNat := by rcases hn with hn | hn <;> rw [hn] <;> decide
  refine (predictorOk_iff_of_active rfl).2 ⟨?_, ⟨hw, hmax, hh, hn⟩, ⟨hh, hw, hn0⟩, ?_, ?_⟩
  · simp [sampleIndex]
  · intro c j _ _ hneed
    simp [Passed] at hneed
  · intro c _ hrow
    simp at hrow

/-- A sample command keeps the predictor's clause when the value it stores is one of the frame's domain (R59, R186,
R187). -/
theorem predictorOk_advance_storeSample {s : State} {v : Int} (ha : s.pstate = .active) (h : PredictorOk s)
    (hv : InDomain s (u16 v)) : PredictorOk (advance (storeSample v s)) := by
  obtain ⟨hcnt, hframe, hpos, hctx⟩ := (predictorOk_iff_of_active ha).1 h
  have hcnt' : (advance (storeSample v s)).fixedCnt = BitVec.ofNat 32 (sampleIndex (advance (storeSample v s))) := by
    rw [sampleIndex_advance (s := storeSample v s) hpos, advance_fixedCnt, storeSample_fixedCnt, hcnt, BitVec.ofNat_add]
    rfl
  have hframe' : FrameLegal (advance (storeSample v s)) := by simpa [FrameLegal] using hframe
  rcases advance_active_or_done (s := storeSample v s) ha hpos with ⟨hp, hpos'⟩ | ⟨hp, hrow, hcol, hch⟩
  · exact (predictorOk_iff_of_active hp).2 ⟨hcnt', hframe', hpos', contextWritten_advance_storeSample hpos hctx hv⟩
  · exact (predictorOk_iff_of_done hp).2 ⟨hcnt', hframe', hrow.trans (advance_fh _).symm, hcol, hch⟩

/-- A value of 0 to 255 is one of either domain. -/
theorem inDomain_u16_of_le {s : State} {v : Int} (h : s.fd = 0 → 0 ≤ v ∧ v ≤ 255) : InDomain s (u16 v) := by
  intro hd
  obtain ⟨h0, h255⟩ := h hd
  obtain ⟨n, rfl⟩ := Int.eq_ofNat_of_zero_le h0
  unfold u16
  rw [BitVec.ofInt_natCast, BitVec.toNat_ofNat]
  omega

/-! ## The tables' clauses -/

/-- A frame's next sample has a place in the line buffer and in the above-left registers (R59, R60). -/
theorem storeSample_inBounds {s : State} (v : Int) (h : s.mem.inBounds s.cfg) (hf : FrameLegal s)
    (hpos : PositionInFrame s) : (storeSample v s).mem.inBounds s.cfg := by
  obtain ⟨hfreq, hcum, hlut, hesc, hpay, hlb, hcp⟩ := h
  obtain ⟨-, hmax, -, hfc⟩ := hf
  obtain ⟨-, hcol, hch⟩ := hpos
  have hch3 : s.ch.toNat < 3 := by rcases hfc with h | h <;> rw [h] at hch <;> exact lt_of_lt_of_le hch (by decide)
  have hfw := s.fw.isLt
  refine ⟨hfreq, hcum, hlut, hesc, hpay, fun e he => ?_, tableBelow_tableSet hcp hch3 _⟩
  rcases mem_tableSet he with rfl | he
  · show lineIndex s.ch s.col.toNat / 2 ^ 16 < 3 ∧ lineIndex s.ch s.col.toNat % 2 ^ 16 < s.cfg.maxWidth
    unfold lineIndex
    omega
  · exact hlb e he

theorem unwritten_inBounds (c : Params) : Memory.unwritten.inBounds c := by simp [Memory.inBounds, Memory.unwritten]

/-- The tables MODEL_BUILD writes have 4096 entries (R55, R56). -/
theorem buildTables_inBounds {s : State} (h : s.mem.inBounds s.cfg) (hs : (allFreqs s).sum = 4096) :
    (buildTables s).mem.inBounds s.cfg := by
  obtain ⟨hfreq, -, -, hrest⟩ := h
  have hlen := length_allFreqs s
  rw [buildTables_mem]
  generalize allFreqs s = fs at hs hlen ⊢
  refine ⟨hfreq, fun e he => ?_, fun e he => ?_, hrest⟩
  · simpa [hlen] using (mem_buildCum he).2
  · simpa [hs] using (mem_buildLut he).2

theorem writeFreq_inBounds {s : State} (h : s.mem.inBounds s.cfg) {i : Nat} (hi : i < 4096) (v : Half) :
    (writeFreq i v s).mem.inBounds s.cfg := by
  obtain ⟨hfreq, hrest⟩ := h
  exact ⟨tableBelow_tableSet hfreq hi v, hrest⟩

theorem writeEsc_inBounds {s : State} (h : s.mem.inBounds s.cfg) {i : Nat} (hi : i < s.cfg.escDepth) (v : Half) :
    (writeEsc i v s).mem.inBounds s.cfg := by
  obtain ⟨hfreq, hcum, hlut, hesc, hrest⟩ := h
  exact ⟨hfreq, hcum, hlut, tableBelow_tableSet hesc hi v, hrest⟩

theorem writePay_inBounds {s : State} (h : s.mem.inBounds s.cfg) {i : Nat} (hi : i < s.cfg.payloadBytes) (v : Byte) :
    (writePay i v s).mem.inBounds s.cfg := by
  obtain ⟨hfreq, hcum, hlut, hesc, hpay, hrest⟩ := h
  exact ⟨hfreq, hcum, hlut, hesc, tableBelow_tableSet hpay hi v, hrest⟩

theorem pushBytes_inBounds {s : State} (h : s.mem.inBounds s.cfg) {bs : List Byte}
    (hfit : s.pos.toNat + bs.length ≤ s.cfg.payloadBytes) : (pushBytes bs s).mem.inBounds s.cfg := by
  obtain ⟨hfreq, hcum, hlut, hesc, hpay, hrest⟩ := h
  exact ⟨hfreq, hcum, hlut, hesc, tableBelow_storeBytes bs _ hpay hfit, hrest⟩

/-- The model's clause speaks of its three tables only. -/
theorem UniformModel.of_same {s t : State} (h : UniformModel s) (hfreq : t.mem.freq = s.mem.freq)
    (hcum : t.mem.cum = s.mem.cum) (hlut : t.mem.lut = s.mem.lut) : UniformModel t := by
  unfold UniformModel
  rw [hfreq, hcum, hlut]
  exact h

/-! ## The invariant, operation by operation -/

namespace Inv

variable {s : State}

/-- What the port keeps for itself is no part of the invariant. -/
theorem port (h : Inv s) (rest : List HostEvent) (r : Reply) : Inv { accept rest s with reply := r } := { h with }

theorem raise (h : Inv s) (w : Word) (c : FaultCode) (info : Word) : Inv (raise w c info s) := { h with }

theorem clearFault (h : Inv s) : Inv (clearFault s) := { h with }

theorem withResult (h : Inv s) (v : Word) : Inv { s with result := v } := { h with }

theorem resetWith {c : Params} (h : c.legal = true) : Inv (State.resetWith c) where
  legal := h
  memWf := unwritten_wf
  memBounds := unwritten_inBounds c
  escLen := Nat.zero_le _
  escRd := Nat.zero_le _
  pos := Nat.zero_le _
  model := nofun
  predictor := predictorOk_resetWith c

theorem softReset (h : Inv s) : Inv (softReset s) :=
  { resetWith h.legal with memWf := h.memWf, memBounds := h.memBounds, model := nofun }

theorem hardReset (h : Inv s) : Inv (hardReset s) := { resetWith h.legal with }

theorem writeFreq (h : Inv s) {i : Nat} (hi : i < 4096) (v : Half) : Inv (writeFreq i v s) :=
  { h with
    memWf := writeFreq_wf h.memWf i v
    memBounds := writeFreq_inBounds h.memBounds hi v
    model := nofun }

theorem writeEsc (h : Inv s) {i : Nat} (hi : i < s.cfg.escDepth) (v : Half) : Inv (writeEsc i v s) :=
  { h with memWf := writeEsc_wf h.memWf i v, memBounds := writeEsc_inBounds h.memBounds hi v }

theorem writePay (h : Inv s) {i : Nat} (hi : i < s.cfg.payloadBytes) (v : Byte) : Inv (writePay i v s) :=
  { h with memWf := writePay_wf h.memWf i v, memBounds := writePay_inBounds h.memBounds hi v }

theorem withEscLen (h : Inv s) {n : BitVec 19} (hn : n.toNat ≤ s.cfg.escDepth) : Inv { s with escLen := n } :=
  { h with escLen := hn }

theorem withEscRd (h : Inv s) {n : BitVec 19} (hn : n.toNat ≤ s.cfg.escDepth) : Inv { s with escRd := n } :=
  { h with escRd := hn }

theorem withPos (h : Inv s) {n : BitVec 25} (hn : n.toNat ≤ s.cfg.payloadBytes) : Inv { s with pos := n } :=
  { h with pos := hn }

/-- The coder's registers but POS, and its mode, are no part of the invariant. -/
theorem withCoder (h : Inv s) (x cnt : Word) (m : RMode) : Inv { s with ransX := x, ransCnt := cnt, rmode := m } :=
  { h with }

theorem writeEscLen (h : Inv s) (v : Word) : Inv (writeEscLen v s) := by
  unfold Machine.writeEscLen
  split
  · exact h.withEscLen (toNat_setWidth_le ‹_›)
  · exact h

theorem writeEscRd (h : Inv s) (v : Word) : Inv (writeEscRd v s) := by
  unfold Machine.writeEscRd
  split
  · exact h.withEscRd (toNat_setWidth_le ‹_›)
  · exact h

theorem writePayLen (h : Inv s) (v : Word) : Inv (writePayLen v s) := by
  unfold Machine.writePayLen
  split
  · rename_i hv
    exact h.withPos (toNat_setWidth_le hv.2)
  · exact h

/-- The bytes pushed fit, so POS stays a place of the buffer (R46, R285, R287). -/
theorem pushBytes (h : Inv s) {bs : List Byte} (hfit : s.pos.toNat + bs.length ≤ s.cfg.payloadBytes) :
    Inv (pushBytes bs s) :=
  { h with
    memWf := pushBytes_wf h.memWf bs
    memBounds := pushBytes_inBounds h.memBounds hfit
    pos := toNat_ofNat_le hfit }

theorem appendEscape (h : Inv s) (hfit : s.escLen.toNat < s.cfg.escDepth) (r : Half) : Inv (appendEscape r s) :=
  ((h.writeEsc hfit r).withEscLen (n := s.escLen + 1) (toNat_add_one_le hfit)).withResult _

theorem buildTables (h : Inv s) (hz : lowestZero s = none) (hs : (allFreqs s).sum = 4096) : Inv (buildTables s) := by
  have hwf := buildTables_wf h.memWf
  have hb := buildTables_inBounds h.memBounds hs
  have hu := uniformModel_buildTables hz hs
  unfold Machine.buildTables at *
  generalize allFreqs s = fs at hwf hb hu ⊢
  exact { h with memWf := hwf, memBounds := hb, model := fun _ => hu }

theorem startFrame (h : Inv s)
    (hp : configProblem s.cfg (widthField s.predSize) (heightField s.predSize) s.predChannels = none) :
    Inv (startFrame s) :=
  { h with predictor := predictorOk_startFrame hp }

theorem advance_storeSample (h : Inv s) (ha : s.pstate = .active) {v : Int} (hv : InDomain s (u16 v)) :
    Inv (advance (storeSample v s)) := by
  obtain ⟨-, hframe, hpos, -⟩ := (predictorOk_iff_of_active ha).1 h.predictor
  have hlb := storeSample_inBounds v h.memBounds hframe hpos
  exact {
    legal := by simpa using h.legal
    memWf := by simpa only [advance_mem] using storeSample_wf h.memWf v
    memBounds := by simpa only [advance_mem, advance_cfg, storeSample_cfg] using hlb
    escLen := by simpa using h.escLen
    escRd := by simpa using h.escRd
    pos := by simpa using h.pos
    model := fun hv => (h.model (by simpa using hv)).of_same (by simp) (by simp) (by simp)
    predictor := predictorOk_advance_storeSample ha h.predictor hv }

end Inv
end Sys2Proof.Machine
end

section
/-! The invariant and the encoder's interval over the commands, the port and the step. -/
namespace Sys2Proof.Machine

/-! ## The invariant, command by command -/

namespace Inv
variable {s t : State}

/-- PRED_RES stores the sample itself, checked against the domain (R188). -/
theorem execPredRes (h : Inv s) {v : Half} (he : execPredRes v s = .next t) : Inv t := by
  rcases execPredRes_cases he with ⟨-, rfl⟩ | ⟨-, -, -, rfl⟩ | ⟨ha, hv, rfl⟩
  · exact h.raise _ _ _
  · exact h.raise _ _ _
  · refine (h.withResult _).advance_storeSample ?_ ?_
    · exact ha
    · rw [u16_sampleOperand]
      exact hv

/-- PRED_REC stores a value clamped into the 8-bit domain (R189). -/
theorem execPredRec (h : Inv s) {r : Half} (he : execPredRec r s = .next t) : Inv t := by
  rcases execPredRec_cases he with ⟨-, rfl⟩ | ⟨ha, rfl⟩
  · exact h.raise _ _ _
  · refine (h.withResult _).advance_storeSample ?_ (inDomain_u16_of_le fun (hd : s.fd = 0) => ?_)
    · exact ha
    · unfold reconstructed clamp
      rw [if_pos hd]
      omega

theorem execPredInit (h : Inv s) (he : execPredInit s = .next t) : Inv t := by
  rcases execPredInit_cases he with ⟨_, -, rfl⟩ | ⟨hp, rfl⟩
  · exact h.raise _ _ _
  · exact h.startFrame hp

theorem execSymEnc (h : Inv s) {v : Half} (he : execSymEnc v s = .next t) : Inv t := by
  rcases execSymEnc_cases he with ⟨-, rfl⟩ | ⟨-, -, rfl⟩ | ⟨-, hfit, rfl⟩
  · exact h.withResult _
  · exact h.raise _ _ _
  · exact h.appendEscape hfit v

theorem execSymDec (h : Inv s) {y : Sym} (he : execSymDec y s = .next t) : Inv t := by
  rcases execSymDec_cases he with ⟨-, rfl⟩ | ⟨-, -, rfl⟩ | ⟨-, hrd, rfl⟩
  · exact h.withResult _
  · exact h.raise _ _ _
  · exact (h.withEscRd (toNat_add_one_le (hrd.trans_le h.escLen))).withResult _

theorem execModelBuild (h : Inv s) (he : execModelBuild s = .next t) : Inv t := by
  rcases execModelBuild_cases he with ⟨_, rfl⟩ | ⟨hz, hs, rfl⟩
  · exact h.raise _ _ _
  · exact h.buildTables hz hs

theorem execRansEnc (h : Inv s) {y : Sym} (he : execRansEnc y s = .next t) : Inv t := by
  rcases execRansEnc_cases he with ⟨_, _, rfl⟩ | ⟨-, -, rfl⟩
  · exact h.raise _ _ _
  · rcases encodeSymbol_cases y (readFreq s y.toNat).toNat (readCum s y.toNat).toNat s with heq | ⟨hfit, heq⟩
    · exact heq ▸ h.raise _ _ _
    · exact heq ▸ (h.pushBytes hfit).withCoder _ _ _

theorem execRansEncFlush (h : Inv s) (he : execRansEncFlush s = .next t) : Inv t := by
  rcases execRansEncFlush_cases he with ⟨_, _, rfl⟩ | ⟨-, hfit, rfl⟩
  · exact h.raise _ _ _
  · exact (h.pushBytes (bs := flushBytes s.ransX) hfit).withCoder _ _ _

theorem execRansDecInit (h : Inv s) (he : execRansDecInit s = .next t) : Inv t := by
  rcases execRansDecInit_cases he with ⟨_, _, rfl⟩ | ⟨h4, rfl⟩
  · exact h.raise _ _ _
  · have hpos := h.pos
    exact (h.withPos (n := s.pos - 4) (by bv_omega)).withCoder _ _ _

theorem execRansDec (h : Inv s) (he : execRansDec s = .next t) : Inv t := by
  rcases execRansDec_cases he with ⟨_, _, rfl⟩ | ⟨x, p, -, -, hd, rfl⟩
  · exact h.raise _ _ _
  · have hp : (BitVec.ofNat 25 p).toNat ≤ s.cfg.payloadBytes := toNat_ofNat_le ((decRenorm_le hd).trans h.pos)
    exact ((h.withPos hp).withResult _).withCoder _ _ _

/-- Every command keeps the invariant. -/
theorem exec (h : Inv s) {i : Instr} (he : exec i s = .next t) : Inv t := by
  cases i with
  | nop => cases he; exact h
  | clrFault => cases he; exact h.clearFault
  | softReset => cases he; exact h.softReset
  | predInit => exact h.execPredInit he
  | predRes v => exact h.execPredRes he
  | predRec r => exact h.execPredRec he
  | symInit => cases he; exact (h.withEscLen (n := 0) (Nat.zero_le _)).withEscRd (n := 0) (Nat.zero_le _)
  | symEnc v => exact h.execSymEnc he
  | symDec y => exact h.execSymDec he
  | modelBuild => exact h.execModelBuild he
  | ransEncInit => cases he; exact (h.withPos (n := 0) (Nat.zero_le _)).withCoder _ _ _
  | ransEnc y => exact h.execRansEnc he
  | ransEncFlush => exact h.execRansEncFlush he
  | ransDecInit => exact h.execRansDecInit he
  | ransDec => exact h.execRansDec he

theorem issue (h : Inv s) {w : Word} (he : issue w s = .next t) : Inv t := by
  rcases issue_cases he with ⟨-, heq⟩ | ⟨-, -, heq⟩ | ⟨i, -, -, hi⟩
  · cases heq; exact h
  · cases heq; exact h.raise _ _ _
  · exact h.exec hi

end Inv

/-! ## The encoder's interval -/

/-- The state interval is not empty and lies within 32 bits (R280, R286). -/
theorem low_bounds {c : Params} (h : c.legal = true) : 1 ≤ c.low ∧ c.low * 2 ^ 8 ≤ 2 ^ 32 := by
  rcases ransB_of_legal h with hb | hb <;> simp only [Params.low, hb] <;> decide

/-- What the coder reads of a symbol in the only valid model, where the frequency is written (R253). -/
theorem read_of_uniformModel {s : State} (h : UniformModel s) {y : Sym} (hy : tableGet s.mem.freq y.toNat ≠ none) :
    (readFreq s y.toNat).toNat = 1 ∧ (readCum s y.toNat).toNat = y.toNat := by
  obtain ⟨hf, hc, -⟩ := h y.toNat y.isLt
  rw [readFreq_of_get (hf.resolve_left hy), readCum_of_get hc]
  exact ⟨rfl, toNat_ofNat_of_lt y.isLt⟩

/-- RANS_X after an encoding step is in the state interval (R285, R286). -/
theorem encodedState_mem_interval {c : Params} {tick x f cf : Nat} (hc : c.legal = true) (hlo : c.low ≤ x)
    (hhi : x < c.low * 2 ^ 8) (hf : 1 ≤ f) (hcf : cf + f ≤ 4096) :
    c.low ≤ (encodedState tick (encRenorm (c.xmax f) (shiftLimit f tick) x).1 f cf).toNat
      ∧ (encodedState tick (encRenorm (c.xmax f) (shiftLimit f tick) x).1 f cf).toNat < c.low * 2 ^ 8 := by
  have hstep := encStep_encRenorm_mem_interval hc hlo hhi hf hcf
  have hlt := hstep.2.trans_le (low_bounds hc).2
  have hf0 : f ≠ 0 := by omega
  rw [encodedState, shiftLimit, if_neg hf0, if_neg hf0, wordOrFree_of_lt hlt, toNat_ofNat_of_lt hlt]
  exact hstep

namespace EncoderInterval
variable {s t : State}

/-- The interval speaks of the parameters, the mode and RANS_X only. -/
theorem of_same (h : EncoderInterval s) (hcfg : t.cfg = s.cfg) (hmode : t.rmode = s.rmode) (hx : t.ransX = s.ransX) :
    EncoderInterval t := by
  unfold EncoderInterval
  rw [hcfg, hmode, hx]
  exact h

/-- Outside ENC the interval asks nothing. -/
theorem of_rmode (h : t.rmode ≠ .enc) : EncoderInterval t := fun hm => absurd hm h

theorem execPredRes (h : EncoderInterval s) {v : Half} (he : execPredRes v s = .next t) : EncoderInterval t := by
  rcases execPredRes_cases he with ⟨-, rfl⟩ | ⟨-, -, -, rfl⟩ | ⟨-, -, rfl⟩
  · exact h.of_same rfl rfl rfl
  · exact h.of_same rfl rfl rfl
  · exact h.of_same (by simp) (by simp) (by simp)

theorem execPredRec (h : EncoderInterval s) {r : Half} (he : execPredRec r s = .next t) : EncoderInterval t := by
  rcases execPredRec_cases he with ⟨-, rfl⟩ | ⟨-, rfl⟩
  · exact h.of_same rfl rfl rfl
  · exact h.of_same (by simp) (by simp) (by simp)

theorem execModelBuild (h : EncoderInterval s) (he : execModelBuild s = .next t) : EncoderInterval t := by
  rcases execModelBuild_cases he with ⟨_, rfl⟩ | ⟨-, -, rfl⟩
  · exact h.of_same rfl rfl rfl
  · exact h.of_same (buildTables_cfg s) (buildTables_rmode s) (buildTables_ransX s)

/-- RANS_ENC_INIT starts the encoder at the lower end of the interval (R284). -/
theorem execRansEncInit (hinv : Inv s) (he : execRansEncInit s = .next t) : EncoderInterval t := by
  cases he
  intro _
  obtain ⟨hlow, hmax⟩ := low_bounds hinv.legal
  have hx : (BitVec.ofNat 32 s.cfg.low).toNat = s.cfg.low := toNat_ofNat_of_lt (by omega)
  show s.cfg.low ≤ (BitVec.ofNat 32 s.cfg.low).toNat ∧ (BitVec.ofNat 32 s.cfg.low).toNat < s.cfg.low * 2 ^ 8
  omega

/-- RANS_ENC with a written frequency, so one of the valid model, stays in the interval (R286). -/
theorem execRansEnc (hinv : Inv s) (h : EncoderInterval s) {y : Sym} (hy : tableGet s.mem.freq y.toNat ≠ none)
    (he : execRansEnc y s = .next t) : EncoderInterval t := by
  rcases execRansEnc_cases he with ⟨_, _, rfl⟩ | ⟨hm, hv, rfl⟩
  · exact h.of_same rfl rfl rfl
  · obtain ⟨hf, hcf⟩ := read_of_uniformModel (hinv.model hv) hy
    obtain ⟨hlo, hhi⟩ := h hm
    rw [hf, hcf]
    rcases encodeSymbol_cases y 1 y.toNat s with heq | ⟨-, heq⟩
    · exact heq ▸ h.of_same rfl rfl rfl
    · have hmem := encodedState_mem_interval (tick := s.tick) (cf := y.toNat) hinv.legal hlo hhi (le_refl 1) (by omega)
      rw [heq]
      intro _
      simp only [pushBytes_cfg]
      exact hmem

/-- Every command but a RANS_ENC over an unwritten frequency keeps the interval. -/
theorem exec (hinv : Inv s) (h : EncoderInterval s) {i : Instr}
    (hy : ∀ y, i = .ransEnc y → tableGet s.mem.freq y.toNat ≠ none) (he : exec i s = .next t) : EncoderInterval t := by
  cases i with
  | nop => cases he; exact h
  | clrFault => cases he; exact h.of_same rfl rfl rfl
  | softReset => cases he; exact of_rmode nofun
  | predInit =>
    rcases execPredInit_cases he with ⟨_, -, rfl⟩ | ⟨-, rfl⟩ <;> exact h.of_same rfl rfl rfl
  | predRes v => exact h.execPredRes he
  | predRec r => exact h.execPredRec he
  | symInit => cases he; exact h.of_same rfl rfl rfl
  | symEnc v =>
    rcases execSymEnc_cases he with ⟨-, rfl⟩ | ⟨-, -, rfl⟩ | ⟨-, -, rfl⟩ <;> exact h.of_same rfl rfl rfl
  | symDec y =>
    rcases execSymDec_cases he with ⟨-, rfl⟩ | ⟨-, -, rfl⟩ | ⟨-, -, rfl⟩ <;> exact h.of_same rfl rfl rfl
  | modelBuild => exact h.execModelBuild he
  | ransEncInit => exact execRansEncInit hinv he
  | ransEnc y => exact execRansEnc hinv h (hy y rfl) he
  | ransEncFlush =>
    rcases execRansEncFlush_cases he with ⟨_, _, rfl⟩ | ⟨-, -, rfl⟩
    · exact h.of_same rfl rfl rfl
    · exact of_rmode nofun
  | ransDecInit =>
    rcases execRansDecInit_cases he with ⟨_, _, rfl⟩ | ⟨-, rfl⟩
    · exact h.of_same rfl rfl rfl
    · exact of_rmode nofun
  | ransDec =>
    rcases execRansDec_cases he with ⟨_, _, rfl⟩ | ⟨x, p, hm, -, -, rfl⟩
    · exact h.of_same rfl rfl rfl
    · exact of_rmode (ne_of_eq_of_ne hm nofun)

theorem issue (hinv : Inv s) (h : EncoderInterval s) {w : Word}
    (hy : ∀ y, w = encode (.ransEnc y) → tableGet s.mem.freq y.toNat ≠ none) (he : issue w s = .next t) :
    EncoderInterval t := by
  rcases issue_cases he with ⟨-, heq⟩ | ⟨-, -, heq⟩ | ⟨i, -, hd, hi⟩
  · cases heq; exact h
  · cases heq; exact h.of_same rfl rfl rfl
  · exact exec hinv h (fun y hiy => hy y (by rw [← hiy, encode_of_decode hd])) hi

end EncoderInterval

/-! ## The port and the step -/

/-- What a write to a register can do: issue a command, take a value, or nothing (R32, R87). -/
theorem writeReg_cases {r : Reg} {v : Word} {s t : State} (h : writeReg r v s = .next t) :
    (r = .cmd ∧ issue v s = .next t) ∨ t = { s with predSize := v } ∨ t = writePredFmt v s ∨ t = writeEscLen v s
      ∨ t = writeEscRd v s ∨ t = writePayLen v s ∨ t = s := by
  cases r with
  | cmd => exact .inl ⟨rfl, h⟩
  | predSize => cases h; exact .inr (.inl rfl)
  | predFmt => cases h; exact .inr (.inr (.inl rfl))
  | escLen => cases h; exact .inr (.inr (.inr (.inl rfl)))
  | escRd => cases h; exact .inr (.inr (.inr (.inr (.inl rfl))))
  | payLen => cases h; exact .inr (.inr (.inr (.inr (.inr (.inl rfl)))))
  | _ => cases h; exact .inr (.inr (.inr (.inr (.inr (.inr rfl)))))

theorem Inv.writeReg {s t : State} (h : Inv s) {r : Reg} {v : Word} (he : writeReg r v s = .next t) : Inv t := by
  rcases writeReg_cases he with ⟨-, hi⟩ | rfl | rfl | rfl | rfl | rfl | rfl
  · exact h.issue hi
  · exact { h with }
  · exact { h with }
  · exact h.writeEscLen v
  · exact h.writeEscRd v
  · exact h.writePayLen v
  · exact h

/-- Every write the port performs keeps the invariant: the address map has only entries the block has (R81, R96). -/
theorem Inv.writeTarget {s t : State} (h : Inv s) {off : Nat} {v : Word}
    (he : writeTarget (targetAt s.cfg off) v s = .next t) : Inv t := by
  rcases targetAt_cases s.cfg off with
    ⟨r, hr⟩ | ⟨i, hi, hr⟩ | ⟨i, -, hr⟩ | ⟨i, -, hr⟩ | ⟨i, hi, hr⟩ | ⟨i, hi, hr⟩ | hr <;> rw [hr] at he
  case inl => exact h.writeReg he
  all_goals cases he
  · exact h.writeFreq hi _
  · exact h
  · exact h
  · exact h.writeEsc hi _
  · exact h.writePay hi _
  · exact h

/-- The port's writes of values are none of the coder's state or mode. -/
theorem writeTarget_cases {tg : Target} {v : Word} {s t : State} (h : writeTarget tg v s = .next t) :
    (tg = .reg .cmd ∧ issue v s = .next t) ∨ (t.cfg = s.cfg ∧ t.rmode = s.rmode ∧ t.ransX = s.ransX) := by
  cases tg with
  | reg r =>
    rcases writeReg_cases h with ⟨rfl, hi⟩ | rfl | rfl | rfl | rfl | rfl | rfl
    · exact .inl ⟨rfl, hi⟩
    · exact .inr ⟨rfl, rfl, rfl⟩
    · exact .inr ⟨rfl, rfl, rfl⟩
    · unfold writeEscLen; split <;> exact .inr ⟨rfl, rfl, rfl⟩
    · unfold writeEscRd; split <;> exact .inr ⟨rfl, rfl, rfl⟩
    · unfold writePayLen; split <;> exact .inr ⟨rfl, rfl, rfl⟩
    · exact .inr ⟨rfl, rfl, rfl⟩
  | _ => cases h; exact .inr ⟨rfl, rfl, rfl⟩

/-- Every step keeps the invariant. -/
theorem Inv.step {s t : State} (h : Inv s) (he : step s = .next t) : Inv t := by
  rcases step_cases he with ⟨-, rfl⟩ | ⟨_, _, rest, v, -, rfl⟩ | ⟨_, _, v, rest, off, -, -, -, hw⟩ | ⟨rest, -, rfl⟩
  · exact h
  · exact h.port rest _
  · exact (h.port rest .writeDone).writeTarget hw
  · exact (h.port rest s.reply).hardReset

/-- Every step that is no RANS_ENC over an unwritten frequency keeps the encoder's interval. -/
theorem EncoderInterval.step {s t : State} (hinv : Inv s) (h : EncoderInterval s) (hn : NoDrawnFrequency s)
    (he : step s = .next t) : EncoderInterval t := by
  rcases step_cases he with
    ⟨-, rfl⟩ | ⟨_, _, rest, v, -, rfl⟩ | ⟨addr, size, v, rest, off, hp, -, -, hw⟩ | ⟨rest, -, rfl⟩
  · exact h
  · exact h.of_same rfl rfl rfl
  · have h' : EncoderInterval (atWrite rest s) := h.of_same rfl rfl rfl
    rcases writeTarget_cases hw with ⟨-, hi⟩ | ⟨hcfg, hm, hx⟩
    · exact EncoderInterval.issue (hinv.port rest .writeDone) h' (fun y hv => hn addr size rest y (hv ▸ hp)) hi
    · exact h'.of_same hcfg hm hx
  · exact of_rmode nofun

end Sys2Proof.Machine

/-- Settles O13: each operation of the block keeps the invariant, and RANS_ENC over a written frequency, which is 1 in
the only valid model, keeps the encoder's interval. -/
theorem stepKeepsTheInvariant : Obligations.StepKeepsTheInvariant :=
  fun _ _ hinv he => ⟨hinv.step he, fun h hn => Sys2Proof.Machine.EncoderInterval.step hinv h hn he⟩
end

section
/-! The line buffer and the above-left registers over a frame's samples (10_state.md R59, R60; 41_predictor.md R186). -/
namespace Sys2Proof.Machine

/-! ## Places of the raster before the next sample -/

/-- The flat index of sample (r, j, c) of the frame (00_scope.md R15). -/
abbrev rasterIndex (s : State) (r j c : Nat) : Nat := (r * s.fw.toNat + j) * s.fc.toNat + c

theorem rasterIndex_lt_of_passed {s : State} {c : BitVec 2} {j : Nat} (hc : c.toNat < s.fc.toNat) (h : Passed s c j) :
    rasterIndex s s.row.toNat j c.toNat < sampleIndex s := by
  rcases h with hj | ⟨rfl, hlt⟩
  · exact raster_lt (Nat.add_lt_add_left hj _) hc
  · exact Nat.add_lt_add_left hlt _

theorem rasterIndex_above_lt {s : State} {c j : Nat} (hc : c < s.fc.toNat) (hj : j < s.fw.toNat)
    (hrow : 0 < s.row.toNat) : rasterIndex s (s.row.toNat - 1) j c < sampleIndex s :=
  raster_lt (raster_lt (Nat.sub_lt hrow Nat.one_pos) hj) hc

/-! ## The context of a frame's stored samples -/

/-- A frame starts with the context of no samples (R183). -/
theorem holdsContext_startFrame (s : State) : HoldsContext (startFrame s) [] := by
  refine ⟨?_, ?_, ?_, ?_, ?_⟩
  · simp [sampleIndex]
  · intro c j _ _ hp
    simp [Passed] at hp
  · intro c j _ _ _ hrow
    simp at hrow
  · intro c _ _ hrow
    simp at hrow
  · intro c hc
    simp at hc

section
variable {s : State} {vs : List Half} (h : HoldsContext s vs)
include h

/-- Below the first row, the entry a sample command copies away is the sample above the next one (R59, R186). -/
theorem some_readLine_eq_above (hpos : PositionInFrame s) (hrow : 0 < s.row.toNat) :
    some (readLine s s.ch s.col.toNat) = vs[rasterIndex s (s.row.toNat - 1) s.col.toNat s.ch.toNat]? := by
  obtain ⟨-, hcol, hch⟩ := hpos
  obtain ⟨hlen, -, habove, -, -⟩ := h
  have hnot : ¬ Passed s s.ch s.col.toNat := by unfold Passed; omega
  have hlt : rasterIndex s (s.row.toNat - 1) s.col.toNat s.ch.toNat < vs.length := by
    rw [hlen]; exact rasterIndex_above_lt hch hcol hrow
  have hline := habove s.ch s.col.toNat hch hcol hnot hrow
  rw [List.getElem?_eq_getElem hlt] at hline ⊢
  rw [readLine_of_get hline]

/-- Stored with the next sample, the line buffer holds the row up to that sample (R59, R186). -/
theorem storeSample_line_row (v : Int) {c : BitVec 2} {j : Nat} (hc : c.toNat < s.fc.toNat) (hj : j < s.fw.toNat)
    (hp : Passed s c j ∨ (c = s.ch ∧ j = s.col.toNat)) :
    tableGet (storeSample v s).mem.lb (lineIndex c j)
      = (vs ++ [u16 v])[rasterIndex s s.row.toNat j c.toNat]? := by
  obtain ⟨hlen, hdone, -, -, -⟩ := h
  rw [storeSample_line v s (lt_trans hj s.fw.isLt)]
  by_cases hhere : c = s.ch ∧ j = s.col.toNat
  · have hlast : rasterIndex s s.row.toNat j c.toNat = vs.length := by rw [hlen, hhere.1, hhere.2]; rfl
    rw [if_pos hhere, hlast, List.getElem?_concat_length]
  · have hp := hp.resolve_right hhere
    rw [if_neg hhere, List.getElem?_append_left (hlen ▸ rasterIndex_lt_of_passed hc hp)]
    exact hdone c j hc hj hp

/-- Stored with the next sample, the line buffer holds the row above behind that sample (R59, R186). -/
theorem storeSample_line_above (v : Int) {c : BitVec 2} {j : Nat} (hc : c.toNat < s.fc.toNat) (hj : j < s.fw.toNat)
    (hrow : 0 < s.row.toNat) (hp : ¬ (Passed s c j ∨ (c = s.ch ∧ j = s.col.toNat))) :
    tableGet (storeSample v s).mem.lb (lineIndex c j)
      = (vs ++ [u16 v])[rasterIndex s (s.row.toNat - 1) j c.toNat]? := by
  obtain ⟨hlen, -, habove, -, -⟩ := h
  obtain ⟨hnot, hhere⟩ := not_or.1 hp
  rw [storeSample_line v s (lt_trans hj s.fw.isLt), if_neg hhere,
    List.getElem?_append_left (hlen ▸ rasterIndex_above_lt hc hj hrow)]
  exact habove c j hc hj hnot hrow

/-- Stored with the next sample, the above-left registers hold the row above in the column of that sample, for its
channel and those before it (R60, R186). -/
theorem storeSample_aboveLeft_passed (hpos : PositionInFrame s) (v : Int) {c : BitVec 2}
    (hc : c.toNat ≤ s.ch.toNat) (hrow : 0 < s.row.toNat) :
    tableGet (storeSample v s).mem.cp c.toNat
      = (vs ++ [u16 v])[rasterIndex s (s.row.toNat - 1) s.col.toNat c.toNat]? := by
  have hread := some_readLine_eq_above h hpos hrow
  obtain ⟨-, hcol, hch⟩ := hpos
  obtain ⟨hlen, -, -, -, hcp⟩ := h
  rw [storeSample_aboveLeft,
    List.getElem?_append_left (hlen ▸ rasterIndex_above_lt (lt_of_le_of_lt hc hch) hcol hrow)]
  by_cases hhere : c = s.ch
  · rw [if_pos hhere, hhere, hread]
  · rw [if_neg hhere]
    exact hcp c (lt_of_le_of_ne hc fun heq => hhere (channel_eq_iff.2 heq)) hrow

/-- Stored with the next sample, the above-left registers hold the row above one column further left, for the channels
behind its own (R60, R186). -/
theorem storeSample_aboveLeft_ahead (hpos : PositionInFrame s) (v : Int) {c : BitVec 2} (hc : c.toNat < s.fc.toNat)
    (hch : s.ch.toNat < c.toNat) (hrow : 0 < s.row.toNat) (hcol : 0 < s.col.toNat) :
    tableGet (storeSample v s).mem.cp c.toNat
      = (vs ++ [u16 v])[rasterIndex s (s.row.toNat - 1) (s.col.toNat - 1) c.toNat]? := by
  obtain ⟨-, hfw, -⟩ := hpos
  obtain ⟨hlen, -, -, hcp, -⟩ := h
  rw [storeSample_aboveLeft, if_neg (fun heq => hch.ne' (channel_eq_iff.1 heq)),
    List.getElem?_append_left (hlen ▸ rasterIndex_above_lt hc (by omega) hrow)]
  exact hcp c hc hch.le hrow hcol

/-- A sample command extends the context by the sample it stores (R59, R60, R186). -/
theorem holdsContext_advance_storeSample (hpos : PositionInFrame s) (v : Int) :
    HoldsContext (advance (storeSample v s)) (vs ++ [u16 v]) := by
  have hindex := sampleIndex_advance (s := storeSample v s) hpos
  have hpass := advance_passed (s := storeSample v s) hpos
  have hplace := advance_toNat (s := storeSample v s) hpos
  simp only [passed_storeSample, storeSample_row, storeSample_col, storeSample_ch, storeSample_fc,
    storeSample_fw] at hpass hplace
  unfold HoldsContext
  simp only [advance_mem, advance_fw, advance_fc, storeSample_fw, storeSample_fc]
  refine ⟨?_, fun c j hc hj hp => ?_, fun c j hc hj hp hrow => ?_, fun c hc hk hrow hcol => ?_, fun c hk hrow => ?_⟩
  · rw [List.length_append, h.1, hindex]
    rfl
  · rcases hpass with ⟨hr, hiff⟩ | ⟨-, hnone, -⟩
    · rw [hr]
      exact storeSample_line_row h v hc hj ((hiff c j hc).1 hp)
    · exact absurd hp (hnone c j)
  · rcases hpass with ⟨hr, hiff⟩ | ⟨hr, -, hall⟩
    · rw [hr] at hrow ⊢
      exact storeSample_line_above h v hc hj hrow (mt (hiff c j hc).2 hp)
    · rw [hr]
      exact storeSample_line_row h v hc hj (hall c j hc hj)
  · rcases hplace with ⟨-, hr, hc', hk'⟩ | ⟨hfc, -, hr, hc', hk'⟩ | ⟨-, -, -, hc', -⟩
    · rw [hr] at hrow ⊢
      rw [hc'] at hcol ⊢
      exact storeSample_aboveLeft_ahead h hpos v hc (by omega) hrow hcol
    · rw [hr] at hrow ⊢
      rw [hc']
      exact storeSample_aboveLeft_passed h hpos v (by omega) hrow
    · omega
  · rcases hplace with ⟨-, hr, hc', hk'⟩ | ⟨-, -, -, -, hk'⟩ | ⟨-, -, -, -, hk'⟩
    · rw [hr] at hrow ⊢
      rw [hc']
      exact storeSample_aboveLeft_passed h hpos v (by omega) hrow
    · omega
    · omega

/-- The same with the RESULT of the command, which is no part of the context. -/
theorem holdsContext_advance_storeSample_withResult (hpos : PositionInFrame s) (v : Int) (r : Word) :
    HoldsContext (advance (storeSample v { s with result := r })) (vs ++ [u16 v]) :=
  holdsContext_advance_storeSample (s := { s with result := r }) h hpos v

end
end Sys2Proof.Machine

open Sys2Proof.Machine in
/-- Settles O33: PRED_INIT starts with the context of no samples, and each sample command stores one sample into it. -/
theorem storedSamplesFormTheContext : Obligations.StoredSamplesFormTheContext := by
  refine ⟨fun s t he hfault => ?_, fun s t vs ha hpos h => ⟨fun v hv he => ?_, fun r he => ?_⟩⟩
  · rcases execPredInit_cases he with ⟨_, -, rfl⟩ | ⟨-, rfl⟩
    · cases hfault
    · exact holdsContext_startFrame s
  · rcases execPredRes_cases he with ⟨hna, -⟩ | ⟨-, hd, hbig, -⟩ | ⟨-, -, rfl⟩
    · exact absurd ha hna
    · exact absurd (hv hd) (Nat.not_le.2 hbig)
    · have hnext := holdsContext_advance_storeSample_withResult h hpos (sampleOperand s.fd v)
      rw [u16_sampleOperand] at hnext
      exact hnext _
  · rcases execPredRec_cases he with ⟨hna, -⟩ | ⟨-, rfl⟩
    · exact absurd ha hna
    · rw [advance_result, storeSample_result, u32_low]
      exact holdsContext_advance_storeSample_withResult h hpos _ _
end

section
/-! The port: the registers' offsets and reserved space (10_state.md R32 to R53, 20_memory.md R81 to R87). -/
namespace Sys2Proof.Machine

/-! ## Registers and reserved space in the address map -/

theorem targetAt_regOffset (c : Params) (r : Reg) : targetAt c (regOffset r) = .reg r := by cases r <;> rfl

theorem regOffset_lt (r : Reg) : regOffset r < 2 ^ 27 := by cases r <;> decide

theorem regOffset_mod (r : Reg) : regOffset r % 4 = 0 := by cases r <;> rfl

/-- No register's value depends on the step count. -/
theorem readReg_tick (r : Reg) (s : State) (n : Nat) : readReg r { s with tick := n } = readReg r s := by
  cases r <;> rfl

/-- A read of a register's offset answers the register (R32). -/
theorem memRead_regOffset (r : Reg) (s : State) :
    memRead (regOffset r) s = .next { s with tick := s.tick + 1, reply := .readData (readReg r s) } := by
  rw [memRead_eq s (regOffset_lt r) (regOffset_mod r), targetAt_regOffset]
  exact congrArg (fun v => Host.Outcome.next { s with tick := s.tick + 1, reply := .readData v }) (readReg_tick r s _)

/-- A write to a register's offset is that register's write (R32). -/
theorem memWrite_regOffset (r : Reg) (v : Word) (s : State) :
    memWrite (regOffset r) v s = writeReg r v { s with tick := s.tick + 1, reply := .writeDone } := by
  rw [memWrite_eq s v (regOffset_lt r) (regOffset_mod r), targetAt_regOffset]
  rfl

theorem regAt_reserved {k : Nat} (h : 20 ≤ k) : regAt k = .reserved := by
  obtain ⟨m, rfl⟩ := Nat.exists_eq_add_of_le' h
  rfl

/-- The offsets between the register file and the windows, and behind each window's last entry (R53, R81, R96). -/
theorem targetAt_reserved {c : Params} {off : Nat}
    (h : (0x50 ≤ off ∧ off < 0x4000) ∨ (0x10000 ≤ off ∧ off < 0x100000) ∨ (0x200000 ≤ off ∧ off < 0x4000000)
      ∨ (0x100000 + 4 * c.escDepth ≤ off ∧ off < 0x200000)
      ∨ (0x4000000 + 4 * c.payloadBytes ≤ off ∧ off < 0x8000000)) : targetAt c off = .reserved := by
  unfold targetAt
  split
  · exact regAt_reserved (by omega)
  · rw [if_neg (by omega), if_neg (by omega), if_neg (by omega)]
    split
    · rw [if_neg (by omega)]
    · split
      · rw [if_neg (by omega)]
      · rfl

/-! ## The words of registers with fields -/

/-- The word of PRED_FMT by shifts (R38). -/
theorem predFmt_word (d : BitVec 1) (c : BitVec 2) :
    (0#23 ++ d ++ 0#6 ++ c : Word) = (d.setWidth 32 <<< 8) ||| c.setWidth 32 := by
  revert d c; decide

/-- The word of PRED_POS by shifts (R39). -/
theorem predPos_word (r c : Half) : (r ++ c : Word) = (r.setWidth 32 <<< 16) ||| c.setWidth 32 := by
  rw [BitVec.append_def, BitVec.shiftLeftZeroExtend_eq, BitVec.setWidth'_eq]

theorem faultInfoWord_eq (s : State) : faultInfoWord s = (s.fault.map FaultRecord.info).getD 0 := by
  unfold faultInfoWord; cases s.fault <;> rfl

theorem faultCmdWord_eq (s : State) : faultCmdWord s = (s.fault.map FaultRecord.cmd).getD 0 := by
  unfold faultCmdWord; cases s.fault <;> rfl

/-- The fields of a word appended as STATUS is. (Without `Nat.reduceAdd`, which hides the parts' widths.) -/
theorem extract_statusParts (m : BitVec 2) (d a v f : BitVec 1) (c : BitVec 4) :
    let w := 0#18 ++ m ++ 0#1 ++ d ++ a ++ v ++ c ++ 0#3 ++ f
    w.extractLsb' 0 1 = f ∧ w.extractLsb' 1 3 = 0 ∧ w.extractLsb' 4 4 = c ∧ w.extractLsb' 8 1 = v
      ∧ w.extractLsb' 9 1 = a ∧ w.extractLsb' 10 1 = d ∧ w.extractLsb' 11 1 = 0 ∧ w.extractLsb' 12 2 = m
      ∧ w.extractLsb' 14 18 = 0 := by
  simp (disch := decide) [-Nat.reduceAdd, BitVec.extractLsb'_append_eq_of_le, BitVec.extractLsb'_append_eq_of_add_le]

/-- The fields of STATUS (R35). -/
theorem statusWord_fields (s : State) :
    (statusWord s).extractLsb' 0 1 = faultBit s ∧ (statusWord s).extractLsb' 1 3 = 0
      ∧ (statusWord s).extractLsb' 4 4 = fcodeField s
      ∧ (statusWord s).extractLsb' 8 1 = BitVec.ofBool s.modelValid ∧ (statusWord s).extractLsb' 9 1 = predActiveBit s
      ∧ (statusWord s).extractLsb' 10 1 = predDoneBit s ∧ (statusWord s).extractLsb' 11 1 = 0
      ∧ (statusWord s).extractLsb' 12 2 = rmodeCode s.rmode ∧ (statusWord s).extractLsb' 14 18 = 0 :=
  extract_statusParts ..

theorem extract_capMiscParts (p : BitVec 4) (b : BitVec 5) (m : BitVec 16) :
    let w := 0#4 ++ p ++ 0#3 ++ b ++ m
    w.extractLsb' 0 16 = m ∧ w.extractLsb' 16 5 = b ∧ w.extractLsb' 21 3 = 0 ∧ w.extractLsb' 24 4 = p
      ∧ w.extractLsb' 28 4 = 0 := by
  simp (disch := decide) [-Nat.reduceAdd, BitVec.extractLsb'_append_eq_of_le, BitVec.extractLsb'_append_eq_of_add_le]

/-- The fields of CAP_MISC (R52). -/
theorem capMiscWord_fields (c : Params) :
    (capMiscWord c).extractLsb' 0 16 = BitVec.ofNat 16 c.maxWidth
      ∧ (capMiscWord c).extractLsb' 16 5 = BitVec.ofNat 5 c.ransB ∧ (capMiscWord c).extractLsb' 21 3 = 0
      ∧ (capMiscWord c).extractLsb' 24 4 = 12 ∧ (capMiscWord c).extractLsb' 28 4 = 0 :=
  extract_capMiscParts ..

theorem faultBit_eq_one_iff (s : State) : faultBit s = 1 ↔ s.fault ≠ none := by
  rw [faultBit, ofBool_eq_one_iff, Option.isSome_iff_ne_none]

/-- The fault codes are 1 to 11 (R362). -/
theorem faultCode_range (c : FaultCode) : 1 ≤ (faultCode c).toNat ∧ (faultCode c).toNat ≤ 11 := by
  cases c <;> decide

/-! ## Read-only registers -/

/-- The registers no write changes (R32). -/
def readOnlyRegs : List Reg :=
  [.id, .status, .result, .predPos, .predCh, .predFixedCnt, .predAdaptCnt, .ransX, .ransCnt, .faultInfo, .faultCmd,
    .capPayload, .capEsc, .capMisc]

theorem writeReg_readOnly (v : Word) (s : State) : ∀ r ∈ readOnlyRegs, writeReg r v s = .next s := by
  simp [readOnlyRegs, writeReg]

end Sys2Proof.Machine

open Sys2Proof Sys2Proof.Machine

/-- Settles O21: the address map gives reserved space at each of these offsets. -/
theorem reservedSpaceReadsZero : Obligations.ReservedSpaceReadsZero := by
  intro s off v h4 h
  have hoff : off < 2 ^ 27 := by omega
  rw [memRead_eq s hoff h4, memWrite_eq s v hoff h4, targetAt_reserved h]
  exact ⟨rfl, rfl⟩

/-- Settles O17: each offset of the list is a register's, and each word what that register reads. -/
theorem registerReadsFollowTheMap : Obligations.RegisterReadsFollowTheMap := by
  intro s
  rw [← predFmt_word, ← predPos_word, ← faultInfoWord_eq, ← faultCmdWord_eq]
  change ∀ p ∈ [Reg.id, .cmd, .status, .result, .predSize, .predFmt, .predPos, .predCh, .predFixedCnt, .predAdaptCnt,
    .escLen, .escRd, .ransX, .payLen, .ransCnt, .faultInfo, .faultCmd, .capPayload, .capEsc].map
      (fun r => (regOffset r, readReg r s)), _
  exact List.forall_mem_map.2 fun r _ => memRead_regOffset r s

/-- Settles O27: each offset of the list is a read-only register's. -/
theorem readOnlyRegistersIgnoreWrites : Obligations.ReadOnlyRegistersIgnoreWrites := by
  intro s v
  change ∀ off ∈ readOnlyRegs.map regOffset, _
  refine List.forall_mem_map.2 fun r hr => ?_
  rw [memWrite_regOffset, writeReg_readOnly v _ r hr]

/-- Settles O26: each of the five registers takes a legal value, which its field can hold, and ignores any other. -/
theorem writableRegistersTakeLegalValues : Obligations.WritableRegistersTakeLegalValues := by
  intro s v h done
  have hesc := escDepth_of_legal h
  have hpay := payloadBytes_of_legal h
  have hlen : memWrite 0x28 v s = .next (writeEscLen v done) := memWrite_regOffset .escLen v s
  have hrd : memWrite 0x2C v s = .next (writeEscRd v done) := memWrite_regOffset .escRd v s
  have hpos : memWrite 0x34 v s = .next (writePayLen v done) := memWrite_regOffset .payLen v s
  refine ⟨memWrite_regOffset .predSize v s, memWrite_regOffset .predFmt v s, fun hv => ⟨_, hlen, ?_⟩, fun hv => ?_,
    fun hv => ⟨_, hrd, ?_⟩, fun hv => ?_, fun hm hv => ⟨_, hpos, ?_⟩, fun hv => ?_⟩
  · rw [writeEscLen, if_pos hv]
    exact ⟨rfl, toNat_setWidth_of_lt (by omega)⟩
  · rw [hlen, writeEscLen, if_neg (Nat.not_le.2 hv)]
  · rw [writeEscRd, if_pos hv]
    exact ⟨rfl, toNat_setWidth_of_lt (by omega)⟩
  · rw [hrd, writeEscRd, if_neg (Nat.not_le.2 hv)]
  · rw [writePayLen, if_pos ⟨hm, hv⟩]
    exact ⟨rfl, toNat_setWidth_of_lt (by omega)⟩
  · rw [hpos, writePayLen, if_neg (by rintro ⟨hm, hle⟩; exact hv.elim (· hm) (Nat.not_lt.2 hle))]

/-- Settles O18: the legal parameters fit their fields. -/
theorem capMiscHoldsTheParameters : Obligations.CapMiscHoldsTheParameters := by
  intro s h
  obtain ⟨hwidth, hransB, hrsvd, hprec, hhigh⟩ := capMiscWord_fields s.cfg
  refine ⟨capMiscWord s.cfg, memRead_regOffset .capMisc s, ?_, ?_, hrsvd, hprec, hhigh⟩
  · have hmax := maxWidth_of_legal h
    rw [hwidth, toNat_ofNat_of_lt (by omega)]
  · have hB := ransB_of_legal h
    rw [hransB, toNat_ofNat_of_lt (by omega)]

/-- Settles O19: each field of the STATUS word is the part of it appended there. -/
theorem statusHoldsItsFields : Obligations.StatusHoldsItsFields := by
  intro s w
  obtain ⟨hfault, hrsvd1, hfcode, hvalid, hactive, hdone, hrsvd11, hmode, hrsvd14⟩ := statusWord_fields s
  simp only [w, hfault, hfcode, hvalid, hactive, hdone, hmode]
  refine ⟨faultBit_eq_one_iff s, hrsvd1, fun h => ?_, fun r h => ⟨?_, faultCode_range r.code⟩, rfl, rfl, rfl, rfl, rfl,
    rfl, rfl, rfl, rfl, rfl, rfl, ofBool_eq_one_iff, ?_, ?_, hrsvd11, ?_, ?_, ?_, hrsvd14⟩
  · rw [fcodeField, h]
  · rw [fcodeField, h]
  · exact ofBool_eq_one_iff.trans beq_iff_eq
  · exact ofBool_eq_one_iff.trans beq_iff_eq
  all_goals cases s.rmode <;> decide
end

section
/-! The table windows in the address map (20_memory.md R81, R82, R91 to R96) and the accesses the port performs (R84,
R86). -/
namespace Sys2Proof.Machine

/-! ## The inverse of the address map -/

/-- What the block has at an offset of its own: every register, and the entries that its windows and its depths hold
(R81, R96). -/
def HasTarget (c : Params) : Target → Prop
  | .reg _ | .reserved => True
  | .freq i | .cum i | .lut i => i < 4096
  | .esc i => i < c.escDepth ∧ i < 2 ^ 18
  | .pay i => i < c.payloadBytes ∧ i < 2 ^ 24

theorem offsetOf_lt {c : Params} {tg : Target} (h : HasTarget c tg) : offsetOf tg < 2 ^ 27 := by
  cases tg with
  | reg r => exact regOffset_lt r
  | reserved => decide
  | _ => simp only [HasTarget] at h; simp only [offsetOf]; omega

theorem offsetOf_mod (tg : Target) : offsetOf tg % 4 = 0 := by
  cases tg with
  | reg r => exact regOffset_mod r
  | reserved => rfl
  | _ => simp only [offsetOf]; omega

/-- The entry at a window's offset, by the address map's formula (R82). -/
theorem index_of_entryOffset (base i : Nat) : (base + 4 * i - base) / 4 = i := by omega

/-- `offsetOf` gives each target an offset at which the address map finds it (R82). -/
theorem targetAt_offsetOf {c : Params} {tg : Target} (h : HasTarget c tg) : targetAt c (offsetOf tg) = tg := by
  cases tg with
  | reg r => exact targetAt_regOffset c r
  | reserved => rfl
  | freq i =>
    simp only [HasTarget] at h
    change targetAt c (0x4000 + 4 * i) = _
    unfold targetAt
    rw [if_neg (by omega), if_pos (by omega), index_of_entryOffset]
  | cum i =>
    simp only [HasTarget] at h
    change targetAt c (0x8000 + 4 * i) = _
    unfold targetAt
    rw [if_neg (by omega), if_neg (by omega), if_pos (by omega), index_of_entryOffset]
  | lut i =>
    simp only [HasTarget] at h
    change targetAt c (0xC000 + 4 * i) = _
    unfold targetAt
    rw [if_neg (by omega), if_neg (by omega), if_neg (by omega), if_pos (by omega), index_of_entryOffset]
  | esc i =>
    obtain ⟨hdepth, hwindow⟩ := h
    change targetAt c (0x100000 + 4 * i) = _
    unfold targetAt
    rw [if_neg (by omega), if_neg (by omega), if_neg (by omega), if_neg (by omega), if_pos (by omega),
      index_of_entryOffset, if_pos hdepth]
  | pay i =>
    obtain ⟨hdepth, hwindow⟩ := h
    change targetAt c (0x4000000 + 4 * i) = _
    unfold targetAt
    rw [if_neg (by omega), if_neg (by omega), if_neg (by omega), if_neg (by omega), if_neg (by omega),
      if_pos (by omega), index_of_entryOffset, if_pos hdepth]

/-- A read at a target's offset answers what the target reads in that step (R82, R85). -/
theorem memRead_offsetOf {s : State} {tg : Target} {x : Word} (h : HasTarget s.cfg tg)
    (hx : readTarget tg { s with tick := s.tick + 1 } = x) :
    memRead (offsetOf tg) s = .next { s with tick := s.tick + 1, reply := .readData x } := by
  rw [memRead_eq s (offsetOf_lt h) (offsetOf_mod tg), targetAt_offsetOf h, hx]

/-- A write at a target's offset is that target's write (R82, R85). -/
theorem memWrite_offsetOf {s : State} {tg : Target} (h : HasTarget s.cfg tg) (v : Word) :
    memWrite (offsetOf tg) v s = writeTarget tg v { s with tick := s.tick + 1, reply := .writeDone } := by
  rw [memWrite_eq s v (offsetOf_lt h) (offsetOf_mod tg), targetAt_offsetOf h]

/-! ## Accesses the port performs -/

theorem admitted_iff {off size : Nat} : admitted off size = true ↔ size = 4 ∧ off % 4 = 0 := by
  simp [admitted]

/-- A waiting read of the block's window is performed or refused with busError (R84). -/
theorem step_read {s : State} {addr size off : Nat} {rest : List HostEvent}
    (hp : s.pending = .read addr size :: rest) (hw : windowOffset s.cfg addr = some off) :
    step s = if admitted off size then
      .next { accept rest s with reply := .readData (readTarget (targetAt s.cfg off) (accept rest s)) }
    else .refused .busError := by
  simp only [step, hp, perform, performRead, accept_cfg, hw]

/-- A waiting write to the block's window is performed or refused with busError (R84). -/
theorem step_write {s : State} {addr size off : Nat} {v : Word} {rest : List HostEvent}
    (hp : s.pending = .write addr size v :: rest) (hw : windowOffset s.cfg addr = some off) :
    step s = if admitted off size then writeTarget (targetAt s.cfg off) v (atWrite rest s)
    else .refused .busError := by
  simp only [step, hp, perform, performWrite, accept_cfg, hw]
  rfl

theorem step_hardReset {s : State} {rest : List HostEvent} (hp : s.pending = .hardReset :: rest) :
    step s = .next (hardReset (accept rest s)) := by
  simp only [step, hp, perform]

theorem windowOffset_base_eq_none {c : Params} {off : Nat} (h : ¬ off < 2 ^ 27) :
    windowOffset c (c.blockBase + off) = none :=
  if_neg fun hin => h (Nat.lt_of_add_lt_add_left hin.2)

/-- The port reads only at word offsets of the block's window (R80, R84). -/
theorem offset_of_memRead {s t : State} {off : Nat} (h : memRead off s = .next t) : off < 2 ^ 27 ∧ off % 4 = 0 := by
  by_cases hoff : off < 2 ^ 27
  · rw [memRead, hostAccess, step_read (s := { s with pending := _ }) rfl (windowOffset_base s.cfg hoff)] at h
    split at h
    · exact ⟨hoff, (admitted_iff.1 ‹_›).2⟩
    · cases h
  · simp only [memRead, hostAccess, step, perform, performRead, accept_cfg, windowOffset_base_eq_none hoff] at h
    cases h

/-! ## Reads in different steps -/

/-- A target whose value no free value gives: anything but a table entry that nothing has written (R68). -/
def HoldsValue (m : Memory) : Target → Prop
  | .reg _ | .reserved => True
  | .freq i => tableGet m.freq i ≠ none
  | .cum i => tableGet m.cum i ≠ none
  | .lut i => tableGet m.lut i ≠ none
  | .esc i => tableGet m.esc i ≠ none
  | .pay i => tableGet m.pay i ≠ none

/-- A written entry reads alike in every step. -/
theorem entryOrFree_tick {w : Nat} {t : Table w} {i : Nat} (h : tableGet t i ≠ none) (n : TableName) (k l : Nat) :
    entryOrFree k n t i = entryOrFree l n t i := by
  obtain ⟨v, hv⟩ := Option.ne_none_iff_exists'.1 h
  rw [entryOrFree_of_get hv, entryOrFree_of_get hv]

/-- What holds a value reads alike in every step, whatever the port answered last. -/
theorem readTarget_tick {tg : Target} {s : State} (h : HoldsValue s.mem tg) (k l : Nat) (r : Reply) :
    readTarget tg { s with tick := k, reply := r } = readTarget tg { s with tick := l } := by
  cases tg with
  | reg r => cases r <;> rfl
  | reserved => rfl
  | freq i => exact congrArg (BitVec.setWidth 32) (entryOrFree_tick h .freq k l)
  | cum i => exact congrArg (BitVec.setWidth 32) (entryOrFree_tick h .cum k l)
  | lut i => exact congrArg (BitVec.setWidth 32) (entryOrFree_tick h .lut k l)
  | esc i => exact congrArg (BitVec.signExtend 32) (entryOrFree_tick h .esc k l)
  | pay i => exact congrArg (BitVec.setWidth 32) (entryOrFree_tick h .pay k l)

end Sys2Proof.Machine

open Sys2Proof Sys2Proof.Machine

/-- Settles O20: the offset is in the window, so an access of another size or alignment is refused there. -/
theorem unadmittedAccessIsRefused : Obligations.UnadmittedAccessIsRefused := by
  intro s rest off size v hoff hbad
  have hw := windowOffset_base s.cfg hoff
  have hna : ¬ admitted off size = true := fun h => by rw [admitted_iff] at h; omega
  refine ⟨fun hp => ?_, fun hp => ?_⟩
  · rw [step_read hp hw, if_neg hna]
  · rw [step_write hp hw, if_neg hna]

/-- Settles O16: a step that takes a read changes the answer alone, and the second of two reads differs from the first
in the step count, on which what holds a value does not depend. -/
theorem readsHaveNoSideEffect : Obligations.ReadsHaveNoSideEffect := by
  refine ⟨fun s t rest addr size hp h => ?_, fun s t u off hfreq hcum hlut hesc hpay ht hu => ?_⟩
  · rcases step_cases h with ⟨hp', -⟩ | ⟨_, _, _, v, hp', rfl⟩ | ⟨_, _, _, _, _, hp', -⟩ | ⟨_, hp', -⟩
    all_goals rw [hp] at hp'; cases hp'
    exact ⟨v, rfl⟩
  · have hval : HoldsValue s.mem (targetAt s.cfg off) := by
      cases htg : targetAt s.cfg off with
      | reg r => trivial
      | reserved => trivial
      | freq i => exact hfreq i htg
      | cum i => exact hcum i htg
      | lut i => exact hlut i htg
      | esc i => exact hesc i htg
      | pay i => exact hpay i htg
    obtain ⟨hoff, h4⟩ := offset_of_memRead ht
    rw [memRead_eq s hoff h4] at ht
    cases ht
    rw [memRead_eq _ hoff h4] at hu
    cases hu
    exact congrArg Reply.readData (readTarget_tick hval _ _ _)

/-- Settles O22: the write is writeFreq of the low half. -/
theorem freqWindowStoresAndInvalidates : Obligations.FreqWindowStoresAndInvalidates := by
  intro s i v hi
  have h : HasTarget s.cfg (.freq i) := hi
  refine ⟨⟨_, memWrite_offsetOf h v, ?_, fun j hj => ?_, rfl⟩, fun x hx => memRead_offsetOf h ?_⟩
  · exact tableGet_tableSet_self s.mem.freq i _
  · exact tableGet_tableSet_of_ne s.mem.freq _ hj
  · exact congrArg (BitVec.setWidth 32) (readFreq_of_get hx)

/-- Settles O24: the write is writeEsc of the low half. -/
theorem escWindowSignExtends : Obligations.EscWindowSignExtends := by
  intro s i v hdepth hwindow
  have h : HasTarget s.cfg (.esc i) := ⟨hdepth, hwindow⟩
  refine ⟨⟨_, memWrite_offsetOf h v, ?_, fun j hj => ?_, rfl⟩, fun x hx => memRead_offsetOf h ?_⟩
  · exact tableGet_tableSet_self s.mem.esc i _
  · exact tableGet_tableSet_of_ne s.mem.esc _ hj
  · exact congrArg (BitVec.signExtend 32) (readEsc_of_get hx)

/-- Settles O25: the write is writePay of the low byte, whatever the mode. -/
theorem payWindowHoldsBytes : Obligations.PayWindowHoldsBytes := by
  intro s i v hdepth hwindow
  have h : HasTarget s.cfg (.pay i) := ⟨hdepth, hwindow⟩
  refine ⟨⟨_, memWrite_offsetOf h v, ?_, fun j hj => ?_, rfl⟩, fun x hx => memRead_offsetOf h ?_⟩
  · exact tableGet_tableSet_self s.mem.pay i _
  · exact tableGet_tableSet_of_ne s.mem.pay _ hj
  · exact congrArg (BitVec.setWidth 32) (readPay_of_get hx)

/-- Settles O23: the port's write of a CUM or LUT entry keeps the state. -/
theorem cumAndLutWindowsAreReadOnly : Obligations.CumAndLutWindowsAreReadOnly := by
  intro s i v hi
  have hcum : HasTarget s.cfg (.cum i) := hi
  have hlut : HasTarget s.cfg (.lut i) := hi
  refine ⟨memWrite_offsetOf hcum v, memWrite_offsetOf hlut v, fun x hx => memRead_offsetOf hcum ?_,
    fun x hx => memRead_offsetOf hlut ?_⟩
  · exact congrArg (BitVec.setWidth 32) (readCum_of_get hx)
  · exact congrArg (BitVec.setWidth 32) (readLut_of_get hx)
end

section
/-! Progress: every command completes, no step touches the events that still wait, and admitted events are performed
(20_memory.md R84, R97; 40_control.md R165). -/
namespace Sys2Proof.Machine

/-! ## Every write completes -/

/-- No command stops: each arm of `exec` answers a next state. -/
theorem exec_completes (i : Instr) (s : State) : ∃ t, exec i s = .next t := by
  cases i <;> exact ⟨_, rfl⟩

theorem issue_completes (w : Word) (s : State) : ∃ t, issue w s = .next t := by
  unfold issue
  split
  · exact ⟨_, rfl⟩
  · split
    · exact ⟨_, rfl⟩
    · exact exec_completes _ s

/-- Only a write to CMD can take more than a value. -/
theorem writeTarget_completes (tg : Target) (v : Word) (s : State) : ∃ t, writeTarget tg v s = .next t := by
  cases tg with
  | reg r =>
    cases r with
    | cmd => exact issue_completes v s
    | _ => exact ⟨_, rfl⟩
  | _ => exact ⟨_, rfl⟩

/-! ## Commands and writes keep the parameters and the port -/

theorem samePort_raise (w : Word) (c : FaultCode) (info : Word) (s : State) : SamePort s (raise w c info s) :=
  ⟨rfl, rfl, rfl, rfl⟩

theorem samePort_advance_storeSample (v : Int) (r : Word) (s : State) :
    SamePort s (advance (storeSample v { s with result := r })) := by
  simp [SamePort]

/-- A command leaves alone the parameters (R9), the events that wait, the answer and the step count. -/
theorem samePort_exec {i : Instr} {s t : State} (h : exec i s = .next t) : SamePort s t := by
  cases i with
  | nop => cases h; exact ⟨rfl, rfl, rfl, rfl⟩
  | clrFault => cases h; exact ⟨rfl, rfl, rfl, rfl⟩
  | softReset => cases h; exact ⟨rfl, rfl, rfl, rfl⟩
  | predInit =>
    rcases execPredInit_cases h with ⟨_, -, rfl⟩ | ⟨-, rfl⟩
    · exact samePort_raise _ _ _ s
    · exact ⟨rfl, rfl, rfl, rfl⟩
  | predRes v =>
    rcases execPredRes_cases h with ⟨-, rfl⟩ | ⟨-, -, -, rfl⟩ | ⟨-, -, rfl⟩
    · exact samePort_raise _ _ _ s
    · exact samePort_raise _ _ _ s
    · exact samePort_advance_storeSample _ _ s
  | predRec r =>
    rcases execPredRec_cases h with ⟨-, rfl⟩ | ⟨-, rfl⟩
    · exact samePort_raise _ _ _ s
    · exact samePort_advance_storeSample _ _ s
  | symInit => cases h; exact ⟨rfl, rfl, rfl, rfl⟩
  | symEnc v =>
    rcases execSymEnc_cases h with ⟨-, rfl⟩ | ⟨-, -, rfl⟩ | ⟨-, -, rfl⟩
    all_goals exact ⟨rfl, rfl, rfl, rfl⟩
  | symDec y =>
    rcases execSymDec_cases h with ⟨-, rfl⟩ | ⟨-, -, rfl⟩ | ⟨-, -, rfl⟩
    all_goals exact ⟨rfl, rfl, rfl, rfl⟩
  | modelBuild =>
    rcases execModelBuild_cases (s := s) h with ⟨_, rfl⟩ | ⟨-, -, rfl⟩
    · exact samePort_raise _ _ _ s
    · exact ⟨buildTables_cfg s, buildTables_pending s, buildTables_reply s, buildTables_tick s⟩
  | ransEncInit => cases h; exact ⟨rfl, rfl, rfl, rfl⟩
  | ransEnc y =>
    rcases execRansEnc_cases h with ⟨_, _, rfl⟩ | ⟨-, -, rfl⟩
    · exact samePort_raise _ _ _ s
    · rcases encodeSymbol_cases y (readFreq s y.toNat).toNat (readCum s y.toNat).toNat s with heq | ⟨-, heq⟩
      all_goals rw [heq]; exact ⟨rfl, rfl, rfl, rfl⟩
  | ransEncFlush =>
    rcases execRansEncFlush_cases h with ⟨_, _, rfl⟩ | ⟨-, -, rfl⟩
    all_goals exact ⟨rfl, rfl, rfl, rfl⟩
  | ransDecInit =>
    rcases execRansDecInit_cases h with ⟨_, _, rfl⟩ | ⟨-, rfl⟩
    all_goals exact ⟨rfl, rfl, rfl, rfl⟩
  | ransDec =>
    rcases execRansDec_cases h with ⟨_, _, rfl⟩ | ⟨_, _, -, -, -, rfl⟩
    all_goals exact ⟨rfl, rfl, rfl, rfl⟩

theorem samePort_issue {w : Word} {s t : State} (h : issue w s = .next t) : SamePort s t := by
  rcases issue_cases h with ⟨-, heq⟩ | ⟨-, -, heq⟩ | ⟨i, -, -, hi⟩
  · cases heq; exact ⟨rfl, rfl, rfl, rfl⟩
  · cases heq; exact samePort_raise _ _ _ s
  · exact samePort_exec hi

theorem samePort_writeReg {r : Reg} {v : Word} {s t : State} (h : writeReg r v s = .next t) : SamePort s t := by
  rcases writeReg_cases h with ⟨-, hi⟩ | rfl | rfl | rfl | rfl | rfl | rfl
  · exact samePort_issue hi
  · exact ⟨rfl, rfl, rfl, rfl⟩
  · exact ⟨rfl, rfl, rfl, rfl⟩
  · unfold writeEscLen; split <;> exact ⟨rfl, rfl, rfl, rfl⟩
  · unfold writeEscRd; split <;> exact ⟨rfl, rfl, rfl, rfl⟩
  · unfold writePayLen; split <;> exact ⟨rfl, rfl, rfl, rfl⟩
  · exact ⟨rfl, rfl, rfl, rfl⟩

theorem samePort_writeTarget {tg : Target} {v : Word} {s t : State} (h : writeTarget tg v s = .next t) :
    SamePort s t := by
  cases tg with
  | reg r => exact samePort_writeReg h
  | _ => cases h; exact ⟨rfl, rfl, rfl, rfl⟩

/-! ## Steps over admitted events -/

/-- A step keeps the parameters and takes the first waiting event off the port, if there is one (R97). -/
theorem step_cfg_pending {s t : State} (h : step s = .next t) : t.cfg = s.cfg ∧ t.pending = s.pending.tail := by
  rcases step_cases h with ⟨hp, rfl⟩ | ⟨_, _, _, _, hp, rfl⟩ | ⟨_, _, _, _, _, hp, -, -, hw⟩ | ⟨_, hp, rfl⟩
  · rw [hp]; exact ⟨rfl, rfl⟩
  · rw [hp]; exact ⟨rfl, rfl⟩
  · obtain ⟨hcfg, hpending, -, -⟩ := samePort_writeTarget hw
    rw [hp]
    exact ⟨hcfg, hpending⟩
  · rw [hp]; exact ⟨rfl, rfl⟩

theorem PortAdmitted.step {s t : State} (h : PortAdmitted s) (he : step s = .next t) : PortAdmitted t := by
  obtain ⟨hcfg, hpending⟩ := step_cfg_pending he
  intro e hmem
  rw [hcfg]
  exact h e (List.mem_of_mem_tail (hpending ▸ hmem))

/-- The block performs an admitted event that is first at its port. -/
theorem step_completes_of_eventAdmitted {s : State} {e : HostEvent} {rest : List HostEvent}
    (hp : s.pending = e :: rest) (h : EventAdmitted s.cfg e) : ∃ t, step s = .next t := by
  cases e with
  | read addr size =>
    obtain ⟨off, hw, hadm⟩ := h
    rw [step_read hp hw, if_pos hadm]
    exact ⟨_, rfl⟩
  | write addr size v =>
    obtain ⟨off, hw, hadm⟩ := h
    rw [step_write hp hw, if_pos hadm]
    exact writeTarget_completes _ _ _
  | hardReset => exact ⟨_, step_hardReset hp⟩

/-- With admitted events, or none, at the port no step stops (R84, R403). -/
theorem PortAdmitted.step_completes {s : State} (h : PortAdmitted s) : ∃ t, Machine.step s = .next t := by
  cases hp : s.pending with
  | nil => exact ⟨s, by rw [Machine.step, hp]⟩
  | cons e rest => exact step_completes_of_eventAdmitted hp (h e (by rw [hp]; exact List.mem_cons_self))

/-- A run goes on from the state its first step reaches. -/
theorem run_succ_of_step {s t : State} (h : step s = .next t) (n : Nat) :
    Sys2Proof.core.run (n + 1) s = Sys2Proof.core.run n t := by
  have hcore : Sys2Proof.core.step s = .next t := h
  simp only [Host.Core.run, hcore]

end Sys2Proof.Machine

open Sys2Proof Sys2Proof.Machine

/-- Settles O14, by induction on the number of steps: admitted events never stop a step, and a step keeps the invariant
and leaves admitted events behind it. -/
theorem admittedRunsNeverStop : Obligations.AdmittedRunsNeverStop := by
  intro n
  induction n with
  | zero => exact fun s hinv hport => ⟨s, rfl, hinv, hport⟩
  | succ n ih =>
    intro s hinv hport
    obtain ⟨t, ht⟩ := hport.step_completes
    obtain ⟨u, hu, hinvu, hportu⟩ := ih t (hinv.step ht) (hport.step ht)
    exact ⟨u, (run_succ_of_step ht n).trans hu, hinvu, hportu⟩
end

section
/-! A command's word decodes to that command, and a word is a command's exactly when it matches the command's row
(30_encoding.md R121 to R130). -/
namespace Sys2Proof

/-! The fields of a word put together by format. -/

theorem opField_formatV (o : BitVec 8) (v : Half) : opField (o ++ 0#8 ++ v) = o := by
  rw [BitVec.append_assoc]
  exact BitVec.extractLsb'_append_eq_left

theorem opField_formatS (o : BitVec 8) (y : Sym) : opField (o ++ 0#12 ++ y) = o := by
  rw [BitVec.append_assoc]
  exact BitVec.extractLsb'_append_eq_left

/-- Format V takes a word whose RSVD is 0 and gives its VAL16 to the command (R123). -/
theorem formatV_of_append (o : BitVec 8) (v : Half) (i : Half → Instr) :
    formatV (o ++ 0#8 ++ v) i = some (i v) := by
  have hrsvd : (o ++ 0#8 ++ v : Word).extractLsb' 16 8 = 0#8 := by
    rw [BitVec.extractLsb'_append_eq_of_le (le_refl 16)]
    exact BitVec.extractLsb'_append_eq_right
  have hval : val16Field (o ++ 0#8 ++ v) = v := BitVec.extractLsb'_append_eq_right
  rw [formatV, if_pos hrsvd, hval]

/-- Format S takes a word whose RSVD is 0 and gives its SYM12 to the command (R124). -/
theorem formatS_of_append (o : BitVec 8) (y : Sym) (i : Sym → Instr) :
    formatS (o ++ 0#12 ++ y) i = some (i y) := by
  have hrsvd : (o ++ 0#12 ++ y : Word).extractLsb' 12 12 = 0#12 := by
    rw [BitVec.extractLsb'_append_eq_of_le (le_refl 12)]
    exact BitVec.extractLsb'_append_eq_right
  have hsym : sym12Field (o ++ 0#12 ++ y) = y := BitVec.extractLsb'_append_eq_right
  rw [formatS, if_pos hrsvd, hsym]

/-- A command's word decodes to the command, operand and all (R126, R130). -/
theorem decode_encode (i : Instr) : decode (encode i) = some i := by
  cases i with
  | predRes v | predRec v | symEnc v =>
    simp only [decode, encode, opField_formatV]
    exact formatV_of_append _ v _
  | symDec y | ransEnc y =>
    simp only [decode, encode, opField_formatS]
    exact formatS_of_append _ y _
  | nop | clrFault | softReset | predInit | symInit | modelBuild | ransEncInit | ransEncFlush | ransDecInit | ransDec =>
    decide

/-- A word is illegal exactly when it is no command's word (R130). -/
theorem decode_eq_none_iff {w : Word} : decode w = none ↔ ∀ i, encode i ≠ w := by
  constructor
  · rintro hd i rfl
    rw [decode_encode] at hd
    cases hd
  · intro h
    cases hd : decode w with
    | none => rfl
    | some i => exact absurd (encode_of_decode hd) (h i)

/-! The rows of the opcode map (R126). -/

/-- Every command's word lies in the command's row. -/
theorem encode_and_mask (i : Instr) : encode i &&& (rowOf i).2 = (rowOf i).1 := by
  cases i with
  | predRes v => exact Laws.EncodedInItsRow.predRes v
  | predRec v => exact Laws.EncodedInItsRow.predRec v
  | symEnc v => exact Laws.EncodedInItsRow.symEnc v
  | symDec y => exact Laws.EncodedInItsRow.symDec y
  | ransEnc y => exact Laws.EncodedInItsRow.ransEnc y
  | nop | clrFault | softReset | predInit | symInit | modelBuild | ransEncInit | ransEncFlush | ransDecInit | ransDec =>
    decide

/-- A word whose high part under the mask is `hi` is `hi` followed by the word's own low part. -/
theorem append_low_of_and_mask {a b : Nat} {w : BitVec (a + b)} {hi : BitVec a}
    (h : w &&& (BitVec.allOnes a ++ 0#b) = hi ++ 0#b) : hi ++ w.extractLsb' 0 b = w := by
  have hw : w.extractLsb' b a ++ w.extractLsb' 0 b = w := BitVec.extractLsb'_append_extractLsb'
  rw [← hw, BitVec.and_append, BitVec.and_allOnes, BitVec.and_zero] at h
  rw [← (BitVec.append_left_inj _).mp h, hw]

/-- A word that matches a format V row is the row's opcode with some VAL16 (R123). -/
theorem formatV_of_and_mask {w : Word} {o : BitVec 8} (h : w &&& 0xFFFF0000#32 = o ++ 0#8 ++ 0#16) :
    o ++ 0#8 ++ val16Field w = w :=
  append_low_of_and_mask (a := 16) (b := 16) h

/-- A word that matches a format S row is the row's opcode with some SYM12 (R124). -/
theorem formatS_of_and_mask {w : Word} {o : BitVec 8} (h : w &&& 0xFFFFF000#32 = o ++ 0#12 ++ 0#12) :
    o ++ 0#12 ++ sym12Field w = w :=
  append_low_of_and_mask (a := 20) (b := 12) h

/-- A word that matches a format N row, whose mask takes every bit, is the command's word (R122). -/
theorem encode_eq_of_full_mask {w : Word} {i : Instr} (h : w &&& (rowOf i).2 = (rowOf i).1)
    (hmask : (rowOf i).2 = BitVec.allOnes 32) : encode i = w := by
  have hi := encode_and_mask i
  rw [hmask, BitVec.and_allOnes] at h hi
  exact hi.trans h.symm

/-- A word that matches a command's row is the word of that command with some operand (R126). -/
theorem exists_encode_of_matches {w : Word} {i : Instr} (h : w &&& (rowOf i).2 = (rowOf i).1) :
    ∃ j, encode j = w := by
  cases i with
  | predRes v => exact ⟨.predRes _, formatV_of_and_mask h⟩
  | predRec v => exact ⟨.predRec _, formatV_of_and_mask h⟩
  | symEnc v => exact ⟨.symEnc _, formatV_of_and_mask h⟩
  | symDec y => exact ⟨.symDec _, formatS_of_and_mask h⟩
  | ransEnc y => exact ⟨.ransEnc _, formatS_of_and_mask h⟩
  | nop | clrFault | softReset | predInit | symInit | modelBuild | ransEncInit | ransEncFlush | ransDecInit | ransDec =>
    exact ⟨_, encode_eq_of_full_mask h rfl⟩

/-- A word is illegal exactly when it matches no command's row (R126, R127). -/
theorem decode_eq_none_iff_matches_no_row {w : Word} :
    decode w = none ↔ ∀ i, w &&& (rowOf i).2 ≠ (rowOf i).1 := by
  rw [decode_eq_none_iff]
  constructor
  · intro h i hi
    obtain ⟨j, hj⟩ := exists_encode_of_matches hi
    exact h j hj
  · rintro h i rfl
    exact h i (encode_and_mask i)

/-- One command a row of the opcode map, in the map's order (R126). -/
def mapCommands : List Instr :=
  [.nop, .clrFault, .softReset, .predInit, .predRes 0, .predRec 0, .symInit, .symEnc 0, .symDec 0, .modelBuild,
    .ransEncInit, .ransEnc 0, .ransEncFlush, .ransDecInit, .ransDec]

/-- Every command has its row among theirs: the row does not depend on the operand. -/
theorem rowOf_mem_mapCommands (i : Instr) : rowOf i ∈ mapCommands.map rowOf := by
  cases i <;> simp [mapCommands, rowOf]

end Sys2Proof

open Sys2Proof

/-- Settles O1: a word that decodes is its command's word, and a command's word decodes to the command. -/
theorem decodeAndEncodeAgree : Obligations.DecodeAndEncodeAgree := by
  intro w i
  constructor
  · exact encode_of_decode
  · rintro rfl
    exact decode_encode i

/-- Settles O2: the 15 rows written out are the commands' rows. -/
theorem illegalExactlyOutsideTheMap : Obligations.IllegalExactlyOutsideTheMap := by
  intro w
  change decode w = none ↔ ∀ row ∈ mapCommands.map rowOf, w &&& row.2 ≠ row.1
  rw [decode_eq_none_iff_matches_no_row]
  constructor
  · intro h row hrow
    obtain ⟨i, -, rfl⟩ := List.mem_map.mp hrow
    exact h i
  · exact fun h i => h _ (rowOf_mem_mapCommands i)

/-- Settles O3: each word is a closed one, and the decoder computes. -/
theorem wordsOfTheMapDecode : Obligations.WordsOfTheMapDecode := by
  unfold Obligations.WordsOfTheMapDecode
  decide
end

section
/-! The fault gate and the control commands: what the gate lets through, what a command does to the fault record, and
what a reset leaves in the registers (40_control.md R161 to R168). -/
namespace Sys2Proof.Machine

/-! ## The gate and the issue of a word -/

/-- The gate is open to every word while no record is held, and always to CLR_FAULT and SOFT_RESET (R161). -/
theorem gateDiscards_eq_false_iff {w : Word} {s : State} :
    gateDiscards w s = false ↔ s.fault = none ∨ w = 0x01000000#32 ∨ w = 0x02000000#32 := by
  simp only [gateDiscards, Bool.and_eq_false_iff, Option.isSome_eq_false_iff, Option.isNone_iff_eq_none,
    bne_eq_false_iff_eq, or_assoc]

theorem issue_of_gateDiscards {w : Word} {s : State} (hg : gateDiscards w s = true) : issue w s = .next s :=
  if_pos hg

theorem issue_of_decode_eq_some {w : Word} {s : State} {i : Instr} (hg : gateDiscards w s = false)
    (hd : decode w = some i) : issue w s = exec i s := by
  simp [issue, hg, hd]

theorem issue_of_decode_eq_none {w : Word} {s : State} (hg : gateDiscards w s = false) (hd : decode w = none) :
    issue w s = .next (raise w .illegalCmd 0 s) := by
  simp [issue, hg, hd]

/-! ## The control commands -/

theorem exec_nop (s : State) : exec .nop s = .next s := rfl

theorem exec_clrFault (s : State) : exec .clrFault s = .next (clearFault s) := rfl

theorem exec_softReset (s : State) : exec .softReset s = .next (softReset s) := rfl

/-- OP 0 is NOP's alone, with all other bits 0 (R127, R166). -/
theorem decode_of_opField_eq_zero {w : Word} (hop : opField w = 0) (hw : w ≠ 0) : decode w = none := by
  have hd : decode w = formatN w .nop := by rw [decode, hop]; rfl
  cases hf : formatN w .nop with
  | none => rw [hd, hf]
  | some i =>
    refine absurd ?_ hw
    rw [← opField_append_low w, hop, (formatN_eq_some hf).1]
    rfl

/-! ## What a command does to the fault record -/

/-- A command raises a fault with its own word and does nothing else, or its effect leaves the record or drops it
(R163, R361). -/
theorem exec_raises_or_keeps_fault {i : Instr} {s t : State} (h : exec i s = .next t) :
    (∃ c info, t = raise (encode i) c info s) ∨ t.fault = s.fault ∨ t.fault = none := by
  cases i with
  | nop => cases h; exact .inr (.inl rfl)
  | clrFault => cases h; exact .inr (.inr rfl)
  | softReset => cases h; exact .inr (.inr rfl)
  | predInit =>
    rcases execPredInit_cases h with ⟨_, -, rfl⟩ | ⟨-, rfl⟩
    · exact .inl ⟨_, _, rfl⟩
    · exact .inr (.inl rfl)
  | predRes v =>
    rcases execPredRes_cases h with ⟨-, rfl⟩ | ⟨-, -, -, rfl⟩ | ⟨-, -, rfl⟩
    · exact .inl ⟨_, _, rfl⟩
    · exact .inl ⟨_, _, rfl⟩
    · exact .inr (.inl (advance_fault _))
  | predRec r =>
    rcases execPredRec_cases h with ⟨-, rfl⟩ | ⟨-, rfl⟩
    · exact .inl ⟨_, _, rfl⟩
    · exact .inr (.inl (advance_fault _))
  | symInit => cases h; exact .inr (.inl rfl)
  | symEnc v =>
    rcases execSymEnc_cases h with ⟨-, rfl⟩ | ⟨-, -, rfl⟩ | ⟨-, -, rfl⟩
    · exact .inr (.inl rfl)
    · exact .inl ⟨_, _, rfl⟩
    · exact .inr (.inl rfl)
  | symDec y =>
    rcases execSymDec_cases h with ⟨-, rfl⟩ | ⟨-, -, rfl⟩ | ⟨-, -, rfl⟩
    · exact .inr (.inl rfl)
    · exact .inl ⟨_, _, rfl⟩
    · exact .inr (.inl rfl)
  | modelBuild =>
    rcases execModelBuild_cases (s := s) h with ⟨info, rfl⟩ | ⟨-, -, rfl⟩
    · exact .inl ⟨_, info, rfl⟩
    · exact .inr (.inl (buildTables_fault s))
  | ransEncInit => cases h; exact .inr (.inl rfl)
  | ransEnc y =>
    rcases execRansEnc_cases h with ⟨c, info, rfl⟩ | ⟨-, -, rfl⟩
    · exact .inl ⟨c, info, rfl⟩
    · rcases encodeSymbol_cases y (readFreq s y.toNat).toNat (readCum s y.toNat).toNat s with heq | ⟨-, heq⟩
      · exact .inl ⟨_, _, heq⟩
      · rw [heq]; exact .inr (.inl rfl)
  | ransEncFlush =>
    rcases execRansEncFlush_cases h with ⟨c, info, rfl⟩ | ⟨-, -, rfl⟩
    · exact .inl ⟨c, info, rfl⟩
    · exact .inr (.inl rfl)
  | ransDecInit =>
    rcases execRansDecInit_cases h with ⟨c, info, rfl⟩ | ⟨-, rfl⟩
    · exact .inl ⟨c, info, rfl⟩
    · exact .inr (.inl rfl)
  | ransDec =>
    rcases execRansDec_cases h with ⟨c, info, rfl⟩ | ⟨_, _, -, -, -, rfl⟩
    · exact .inl ⟨c, info, rfl⟩
    · exact .inr (.inl rfl)

/-! ## Commands that keep the tables -/

theorem mem_execPredInit {s t : State} (h : execPredInit s = .next t) : t.mem = s.mem := by
  rcases execPredInit_cases h with ⟨_, -, rfl⟩ | ⟨-, rfl⟩ <;> rfl

theorem mem_execSymDec {y : Sym} {s t : State} (h : execSymDec y s = .next t) : t.mem = s.mem := by
  rcases execSymDec_cases h with ⟨-, rfl⟩ | ⟨-, -, rfl⟩ | ⟨-, -, rfl⟩ <;> rfl

theorem mem_execRansDecInit {s t : State} (h : execRansDecInit s = .next t) : t.mem = s.mem := by
  rcases execRansDecInit_cases h with ⟨_, _, rfl⟩ | ⟨-, rfl⟩ <;> rfl

theorem mem_execRansDec {s t : State} (h : execRansDec s = .next t) : t.mem = s.mem := by
  rcases execRansDec_cases h with ⟨_, _, rfl⟩ | ⟨_, _, -, -, -, rfl⟩ <;> rfl

/-! ## STATUS without its fault fields -/

/-- STATUS[31:8] is what stands above FCODE there: MODEL_VALID, the predictor's bits and RMODE (R35). -/
theorem statusWord_upper (s : State) : (statusWord s).extractLsb' 8 24
    = 0#18 ++ rmodeCode s.rmode ++ 0#1 ++ predDoneBit s ++ predActiveBit s ++ BitVec.ofBool s.modelValid := by
  have hupper (x : BitVec 24) (c : BitVec 4) (f : BitVec 1) : (x ++ c ++ 0#3 ++ f).extractLsb' 8 24 = x := by
    simp (disch := decide) [-Nat.reduceAdd, BitVec.extractLsb'_append_eq_of_le]
  exact hupper _ _ _

/-! ## The registers at reset -/

/-- Every register but ID and the CAP registers reads 0 at reset (R32, R400). Three of them are put together from fields
that are 0. -/
theorem readReg_resetWith_eq_zero (c : Params) {r : Reg} (hr : r ∉ [Reg.id, .capPayload, .capEsc, .capMisc]) :
    readReg r (State.resetWith c) = 0 := by
  cases r with
  | id | capPayload | capEsc | capMisc => exact absurd (by decide) hr
  | status => exact (by decide : statusWord State.reset = 0)
  | predFmt => exact (by decide : readReg .predFmt State.reset = 0)
  | predPos => exact (by decide : readReg .predPos State.reset = 0)
  | _ => rfl

/-- To a read of a register SOFT_RESET is hardware reset: no register shows the tables or the port's fields (R401). -/
theorem readReg_softReset (r : Reg) (s : State) : readReg r (softReset s) = readReg r (State.resetWith s.cfg) := by
  cases r <;> rfl

/-! ## The uniform model is consistent -/

/-- With every FREQ entry written, the only valid model satisfies the laws of R252: each symbol owns the one slot of its
own number (R253). -/
theorem UniformModel.consistent {s : State} (h : UniformModel s)
    (hwritten : ∀ i < 4096, tableGet s.mem.freq i ≠ none) : ConsistentModel s := by
  have hread (y : Nat) (hy : y < 4096) : (readFreq s y).toNat = 1 ∧ (readCum s y).toNat = y := by
    have hsym : (BitVec.ofNat 12 y).toNat = y := toNat_ofNat_of_lt hy
    have := read_of_uniformModel h (y := BitVec.ofNat 12 y) (by rw [hsym]; exact hwritten y hy)
    rwa [hsym] at this
  have hlut (slot : Nat) (hs : slot < 4096) : (readLut s slot).toNat = slot := by
    obtain ⟨-, -, hl⟩ := h slot hs
    rw [readLut_of_get hl, toNat_ofNat_of_lt hs]
  constructor
  · intro y hy
    obtain ⟨hf, hc⟩ := hread y hy
    omega
  · intro slot hs
    obtain ⟨hf, hc⟩ := hread slot hs
    rw [hlut slot hs]
    omega

end Sys2Proof.Machine

open Sys2Proof Sys2Proof.Machine

/-- Settles O6: with no record before it, a command that ends with one is in the case that raised it. -/
theorem faultChangesOnlyTheRecord : Obligations.FaultChangesOnlyTheRecord := by
  intro i s t r hs h ht
  rcases exec_raises_or_keeps_fault h with ⟨c, info, rfl⟩ | hkeep | hdrop
  · rw [raise_fault, Option.some.injEq] at ht
    subst ht
    exact ⟨rfl, rfl⟩
  · rw [hkeep, hs] at ht
    cases ht
  · rw [hdrop] at ht
    cases ht

/-- Settles O54: each of the nine commands' effects has no table write, nor has a fault it raises. -/
theorem commandsThatStoreNothing : Obligations.CommandsThatStoreNothing := by
  intro i s t h hi
  refine ⟨?_, samePort_exec h, ?_, ?_⟩
  · rcases hi with rfl | rfl | rfl | rfl | rfl | ⟨y, rfl⟩ | rfl | rfl | rfl
    · cases h; rfl
    · cases h; rfl
    · cases h; rfl
    · exact mem_execPredInit h
    · cases h; rfl
    · exact mem_execSymDec h
    · cases h; rfl
    · exact mem_execRansDecInit h
    · exact mem_execRansDec h
  · rintro rfl
    cases h
    rfl
  · rintro rfl
    cases h
    rfl

/-- Settles O4: the CMD write issues the word, and the gate, which reads the record alone, is open to it. -/
theorem stepRunsTheDecodedCommand : Obligations.StepRunsTheDecodedCommand := by
  intro s rest w hp hopen
  have hg : gateDiscards w (atWrite rest s) = false := gateDiscards_eq_false_iff.2 hopen
  rw [step_writeCmd hp]
  exact ⟨fun i => issue_of_decode_eq_some hg, issue_of_decode_eq_none hg⟩

/-- Settles O5: the CMD write issues the word, and the gate is shut to it. -/
theorem heldFaultDiscardsTheCommand : Obligations.HeldFaultDiscardsTheCommand := by
  intro s rest w hp
  refine ⟨fun hheld hclr hreset => ?_, fun hnone => gateDiscards_eq_false_iff.2 (.inl hnone)⟩
  have hg : gateDiscards w (atWrite rest s) = true := by
    rw [← Bool.not_eq_false, gateDiscards_eq_false_iff]
    rintro (hnone | hw | hw)
    · exact hheld hnone
    · exact hclr hw
    · exact hreset hw
  rw [step_writeCmd hp, issue_of_gateDiscards hg]

/-- Settles O8: NOP's rule is skip, and format N leaves OP 0 one legal word. -/
theorem nopChangesNothing : Obligations.NopChangesNothing :=
  ⟨by decide, exec_nop, fun _ => decode_of_opField_eq_zero⟩

/-- Settles O9: CLR_FAULT drops the record, and STATUS[31:8] has no part of it. -/
theorem clrFaultDropsTheRecord : Obligations.ClrFaultDropsTheRecord := by
  refine ⟨by decide, fun s =>
    ⟨gateDiscards_eq_false_iff.2 (.inr (.inl rfl)), clearFault s, exec_clrFault s, rfl, ?_⟩⟩
  obtain ⟨hfault, -, hfcode, -⟩ := statusWord_fields (clearFault s)
  refine ⟨hfault, hfcode, ?_, rfl, rfl⟩
  rw [statusWord_upper, statusWord_upper]
  rfl

/-- Settles O10: the registers read as at reset, the CAP registers show the parameters, which stay, and the hidden items
are those of the reset state. -/
theorem softResetKeepsOnlyTheTables : Obligations.SoftResetKeepsOnlyTheTables := by
  refine ⟨by decide, fun s => ⟨gateDiscards_eq_false_iff.2 (.inr (.inr rfl)), softReset s, exec_softReset s, rfl,
    fun r hr => ?_, fun r hr => ?_, rfl, rfl, rfl, rfl, rfl, rfl, rfl, softReset_mem s,
    samePort_exec (exec_softReset s)⟩⟩
  · rw [readReg_softReset]
    refine readReg_resetWith_eq_zero s.cfg ?_
    revert r
    decide
  · simp only [List.mem_cons, List.not_mem_nil, or_false] at hr
    rcases hr with rfl | rfl | rfl <;> rfl

/-- Settles O15: each arm of `exec` answers a next state, and the written uniform model is consistent. -/
theorem everyCommandCompletes : Obligations.EveryCommandCompletes :=
  ⟨exec_completes, fun _ => UniformModel.consistent⟩
end

section
/-! The predictor's commands case by case: MED, the configurations PRED_INIT takes, and what PRED_RES and PRED_REC do in
each PSTATE (41_predictor.md R180 to R189). -/
namespace Sys2Proof.Machine

/-! ## MED -/

theorem med_of_max_le {a b c : Int} (h : c ≥ max a b) : med a b c = min a b := if_pos h

theorem med_of_le_min {a b c : Int} (h : c < max a b) (h' : c ≤ min a b) : med a b c = max a b := by
  rw [med, if_neg (Int.not_le.2 h), if_pos h']

theorem med_of_between {a b c : Int} (h : min a b < c) (h' : c < max a b) : med a b c = a + b - c := by
  rw [med, if_neg (Int.not_le.2 h'), if_neg (Int.not_le.2 h)]

/-- MED lies between its left and its above argument (R182): in the third branch, A + B - C is as far from one of them
as C is from the other. -/
theorem med_between (a b c : Int) : min a b ≤ med a b c ∧ med a b c ≤ max a b := by
  rcases le_or_gt (max a b) c with hmax | hmax
  · rw [med_of_max_le hmax]; omega
  · rcases le_or_gt c (min a b) with hmin | hmin
    · rw [med_of_le_min hmax hmin]; omega
    · rw [med_of_between hmin hmax]; omega

/-! ## PRED_INIT -/

theorem half_eq_zero_iff {x : Half} : x = 0 ↔ x.toNat = 0 := BitVec.toNat_inj.symm

theorem exec_predInit_of_problem {s : State} {info : Word}
    (h : configProblem s.cfg (widthField s.predSize) (heightField s.predSize) s.predChannels = some info) :
    exec .predInit s = .next (raise (encode .predInit) .badConfig info s) := by
  simp only [exec, execPredInit, h]

theorem exec_predInit_of_legal {s : State}
    (h : configProblem s.cfg (widthField s.predSize) (heightField s.predSize) s.predChannels = none) :
    exec .predInit s = .next (startFrame s) := by
  simp only [exec, execPredInit, h]

section
variable {c : Params} {w h : Half} {n : BitVec 2}

theorem configProblem_of_width (hw : w.toNat = 0 ∨ c.maxWidth < w.toNat) : configProblem c w h n = some 1 :=
  if_pos (hw.imp_left half_eq_zero_iff.2)

/-- Past the first check (R183). -/
theorem configProblem_of_width_legal (hw : 1 ≤ w.toNat ∧ w.toNat ≤ c.maxWidth) :
    configProblem c w h n = if h = 0 then some 2 else if n ≠ 1 ∧ n ≠ 3 then some 3 else none :=
  if_neg (by rw [half_eq_zero_iff]; omega)

theorem configProblem_of_height (hw : 1 ≤ w.toNat ∧ w.toNat ≤ c.maxWidth) (hh : h.toNat = 0) :
    configProblem c w h n = some 2 := by
  rw [configProblem_of_width_legal hw, if_pos (half_eq_zero_iff.2 hh)]

/-- Past the first two checks (R183). -/
theorem configProblem_of_size_legal (hw : 1 ≤ w.toNat ∧ w.toNat ≤ c.maxWidth) (hh : 1 ≤ h.toNat) :
    configProblem c w h n = if n ≠ 1 ∧ n ≠ 3 then some 3 else none := by
  rw [configProblem_of_width_legal hw, if_neg (by rw [half_eq_zero_iff]; omega)]

theorem configProblem_of_channels (hw : 1 ≤ w.toNat ∧ w.toNat ≤ c.maxWidth) (hh : 1 ≤ h.toNat)
    (hn : n = 0 ∨ n = 2) : configProblem c w h n = some 3 := by
  rw [configProblem_of_size_legal hw hh]
  rcases hn with rfl | rfl <;> rfl

theorem configProblem_of_frame (hw : 1 ≤ w.toNat ∧ w.toNat ≤ c.maxWidth) (hh : 1 ≤ h.toNat)
    (hn : n = 1 ∨ n = 3) : configProblem c w h n = none := by
  rw [configProblem_of_size_legal hw hh]
  rcases hn with rfl | rfl <;> rfl

end

/-! ## PRED_RES and PRED_REC -/

theorem exec_predRes_of_not_active {s : State} {p : PState} (h : s.pstate = p) (hp : p ≠ .active) (v : Half) :
    exec (.predRes v) s = .next (raise (encode (.predRes v)) .predState (pstateCode p) s) := by
  subst h
  exact congrArg Host.Outcome.next (if_pos hp)

theorem exec_predRes_of_badPixel {s : State} {v : Half} (h : s.pstate = .active) (hd : s.fd = 0) (hv : 255 < v.toNat) :
    exec (.predRes v) s = .next (raise (encode (.predRes v)) .badPixel (v.setWidth 32) s) :=
  congrArg Host.Outcome.next ((if_neg (not_not.2 h)).trans (if_pos ⟨hd, hv⟩))

theorem exec_predRes_of_sample {s : State} {v : Half} (h : s.pstate = .active) (hv : s.fd = 0 → v.toNat ≤ 255) :
    exec (.predRes v) s = .next (advance (storeSample (sampleOperand s.fd v)
      { s with result := u32 (wrap16 (sampleOperand s.fd v - prediction s)) })) :=
  congrArg Host.Outcome.next ((if_neg (not_not.2 h)).trans (if_neg fun hb => Nat.not_lt.2 (hv hb.1) hb.2))

theorem exec_predRec_of_not_active {s : State} {p : PState} (h : s.pstate = p) (hp : p ≠ .active) (r : Half) :
    exec (.predRec r) s = .next (raise (encode (.predRec r)) .predState (pstateCode p) s) := by
  subst h
  exact congrArg Host.Outcome.next (if_pos hp)

theorem exec_predRec_of_active {s : State} (h : s.pstate = .active) (r : Half) :
    exec (.predRec r) s = .next (advance (storeSample (reconstructed s (residualOperand r))
      { s with result := u32 (reconstructed s (residualOperand r)) })) :=
  congrArg Host.Outcome.next (if_neg (not_not.2 h))

/-- What a sample command leaves in the tables and registers its rule names, RESULT apart (R186). -/
theorem advance_storeSample_stores (s : State) (v : Int) (r : Word) :
    let t := advance (storeSample v { s with result := r })
    t.result = r ∧ tableGet t.mem.lb (lineIndex s.ch s.col.toNat) = some (u16 v)
      ∧ tableGet t.mem.cp s.ch.toNat = some (readLine s s.ch s.col.toNat)
      ∧ t.fixedCnt = s.fixedCnt + 1 ∧ t.fault = s.fault := by
  simp only [advance_result, advance_mem, advance_fixedCnt, advance_fault]
  exact ⟨rfl, tableGet_tableSet_self _ _ _, tableGet_tableSet_self _ _ _, rfl, rfl⟩

/-- The residual's pattern is the difference of the sample's and the prediction's (R188). -/
theorem u32_residual (d : BitVec 1) (v : Half) (p : Int) :
    u32 (wrap16 (sampleOperand d v - p)) = (v - BitVec.ofInt 16 p).signExtend 32 := by
  have hv : BitVec.ofInt 16 (sampleOperand d v) = v := u16_sampleOperand d v
  rw [u32_wrap16, Int.sub_eq_add_neg, BitVec.ofInt_add, BitVec.ofInt_neg, hv, ← BitVec.sub_eq_add_neg]

/-- In the 16-bit domain the reconstructed value's pattern is the sum of the prediction's and the residual's (R189). -/
theorem u32_reconstructed_of_wrapped {s : State} (hd : s.fd = 1) (r : Half) :
    u32 (reconstructed s (residualOperand r)) = (BitVec.ofInt 16 (prediction s) + r).signExtend 32 := by
  rw [reconstructed, if_neg (by rw [hd]; decide), u32_wrap16, BitVec.ofInt_add, BitVec.ofInt_toInt]

/-- A sample command that is not rejected stores one value, counts it and moves on (R186). -/
theorem exec_sample_cases {s t : State} {v : Half} (ha : s.pstate = .active)
    (h : (exec (.predRes v) s = .next t ∧ (s.fd = 0 → v.toNat ≤ 255)) ∨ exec (.predRec v) s = .next t) :
    ∃ x r, t = advance (storeSample x { s with result := r }) := by
  rcases h with ⟨h, hv⟩ | h
  · rw [exec_predRes_of_sample ha hv] at h
    cases h
    exact ⟨_, _, rfl⟩
  · rw [exec_predRec_of_active ha] at h
    cases h
    exact ⟨_, _, rfl⟩

/-! ## What the predictor's commands leave unchanged -/

/-- What all three predictor commands leave unchanged (R183, R186). -/
structure PredictorFrame (s t : State) : Prop where
  config : SameFrameConfig s t
  escapes : SameEscapes s t
  coder : SameCoder s t
  port : SamePort s t
  modelValid : t.modelValid = s.modelValid
  /-- Of the tables only LB and CP change. -/
  mem : t.mem = { s.mem with lb := t.mem.lb, cp := t.mem.cp }
  line : ∀ a, a ≠ lineIndex s.ch s.col.toNat → tableGet t.mem.lb a = tableGet s.mem.lb a
  aboveLeft : ∀ a, a ≠ s.ch.toNat → tableGet t.mem.cp a = tableGet s.mem.cp a
  fault : t.fault = s.fault ∨ t = { s with fault := t.fault }

/-- The latched frames agree (R61). -/
def SameLatchedFrame (s t : State) : Prop := t.fw = s.fw ∧ t.fh = s.fh ∧ t.fc = s.fc ∧ t.fd = s.fd

namespace PredictorFrame

theorem raise (w : Word) (c : FaultCode) (info : Word) (s : State) : PredictorFrame s (raise w c info s) where
  config := ⟨rfl, rfl, rfl⟩
  escapes := ⟨rfl, rfl⟩
  coder := ⟨rfl, rfl, rfl, rfl⟩
  port := samePort_raise w c info s
  modelValid := rfl
  mem := rfl
  line _ _ := rfl
  aboveLeft _ _ := rfl
  fault := .inr rfl

theorem startFrame (s : State) : PredictorFrame s (startFrame s) where
  config := ⟨rfl, rfl, rfl⟩
  escapes := ⟨rfl, rfl⟩
  coder := ⟨rfl, rfl, rfl, rfl⟩
  port := ⟨rfl, rfl, rfl, rfl⟩
  modelValid := rfl
  mem := rfl
  line _ _ := rfl
  aboveLeft _ _ := rfl
  fault := .inl rfl

theorem advance_storeSample (s : State) (v : Int) (r : Word) :
    PredictorFrame s (advance (storeSample v { s with result := r })) where
  config := ⟨advance_predSize _, advance_predChannels _, advance_predDomain _⟩
  escapes := ⟨advance_escLen _, advance_escRd _⟩
  coder := ⟨advance_ransX _, advance_pos _, advance_ransCnt _, advance_rmode _⟩
  port := samePort_advance_storeSample v r s
  modelValid := advance_modelValid _
  mem := by rw [advance_mem]; rfl
  line a ha := by rw [advance_mem]; exact tableGet_tableSet_of_ne _ _ ha
  aboveLeft a ha := by rw [advance_mem]; exact tableGet_tableSet_of_ne _ _ ha
  fault := .inl (advance_fault _)

end PredictorFrame

theorem sameLatchedFrame_raise (w : Word) (c : FaultCode) (info : Word) (s : State) :
    SameLatchedFrame s (raise w c info s) := ⟨rfl, rfl, rfl, rfl⟩

theorem sameLatchedFrame_advance_storeSample (s : State) (v : Int) (r : Word) :
    SameLatchedFrame s (advance (storeSample v { s with result := r })) :=
  ⟨advance_fw _, advance_fh _, advance_fc _, advance_fd _⟩

theorem predictorFrame_of_execPredInit {s t : State} (h : execPredInit s = .next t) :
    PredictorFrame s t ∧ t.result = s.result := by
  rcases execPredInit_cases h with ⟨_, -, rfl⟩ | ⟨-, rfl⟩
  · exact ⟨.raise _ _ _ s, rfl⟩
  · exact ⟨.startFrame s, rfl⟩

theorem predictorFrame_of_execPredRes {v : Half} {s t : State} (h : execPredRes v s = .next t) :
    PredictorFrame s t ∧ SameLatchedFrame s t := by
  rcases execPredRes_cases h with ⟨-, rfl⟩ | ⟨-, -, -, rfl⟩ | ⟨-, -, rfl⟩
  · exact ⟨.raise _ _ _ s, sameLatchedFrame_raise _ _ _ s⟩
  · exact ⟨.raise _ _ _ s, sameLatchedFrame_raise _ _ _ s⟩
  · exact ⟨.advance_storeSample s _ _, sameLatchedFrame_advance_storeSample s _ _⟩

theorem predictorFrame_of_execPredRec {r : Half} {s t : State} (h : execPredRec r s = .next t) :
    PredictorFrame s t ∧ SameLatchedFrame s t := by
  rcases execPredRec_cases h with ⟨-, rfl⟩ | ⟨-, rfl⟩
  · exact ⟨.raise _ _ _ s, sameLatchedFrame_raise _ _ _ s⟩
  · exact ⟨.advance_storeSample s _ _, sameLatchedFrame_advance_storeSample s _ _⟩

/-! ## The end of a frame -/

/-- Behind the last row the flat index is the number of samples (R180). -/
theorem sampleIndex_of_end {s : State} (hrow : s.row = s.fh) (hcol : s.col = 0) (hch : s.ch = 0) :
    sampleIndex s = s.fw.toNat * s.fh.toNat * s.fc.toNat := by
  unfold sampleIndex
  rw [hrow, hcol, hch, Nat.mul_comm s.fw.toNat]
  rfl

end Sys2Proof.Machine

open Sys2Proof Sys2Proof.Machine

/-- Settles O28: each branch under its own test, and the bounds in each. -/
theorem medStaysBetweenItsNeighbours : Obligations.MedStaysBetweenItsNeighbours := by
  intro a b c
  obtain ⟨hmin, hmax⟩ := med_between a b c
  exact ⟨hmin, hmax, med_of_max_le, med_of_le_min, med_of_between⟩

/-- Settles O29: the first check that fails gives the info, and none failing starts the frame. -/
theorem predInitLatchesOrRejects : Obligations.PredInitLatchesOrRejects := fun _ =>
  ⟨fun hw hh hn => exec_predInit_of_legal (configProblem_of_frame hw hh hn),
    fun hw => exec_predInit_of_problem (configProblem_of_width hw),
    fun hw hh => exec_predInit_of_problem (configProblem_of_height hw hh),
    fun hw hh hn => exec_predInit_of_problem (configProblem_of_channels hw hh hn)⟩

/-- Settles O30: the stored value's pattern is the sample and the residual's is the difference. -/
theorem predResGivesTheWrappedResidual : Obligations.PredResGivesTheWrappedResidual := by
  intro s v
  refine ⟨fun ha hv => ?_, fun hoff => exec_predRes_of_not_active hoff nofun v,
    fun hdone => exec_predRes_of_not_active hdone nofun v, exec_predRes_of_badPixel⟩
  obtain ⟨hresult, hline, hrest⟩ := advance_storeSample_stores s (sampleOperand s.fd v)
    (u32 (wrap16 (sampleOperand s.fd v - prediction s)))
  rw [u16_sampleOperand] at hline
  exact ⟨_, exec_predRes_of_sample ha hv, hresult.trans (u32_residual _ _ _), hline, hrest⟩

/-- Settles O31: RESULT is the reconstructed value, and its low half is what is stored. -/
theorem predRecReconstructs : Obligations.PredRecReconstructs := by
  intro s r
  refine ⟨fun ha => ?_, fun hoff => exec_predRec_of_not_active hoff nofun r,
    fun hdone => exec_predRec_of_not_active hdone nofun r⟩
  obtain ⟨hresult, hline, hrest⟩ := advance_storeSample_stores s (reconstructed s (residualOperand r))
    (u32 (reconstructed s (residualOperand r)))
  refine ⟨_, exec_predRec_of_active ha r, fun hd => ?_, fun hd => ?_, ?_, hrest⟩
  · rw [hresult, reconstructed, if_pos hd]
    rfl
  · rw [hresult, u32_reconstructed_of_wrapped hd]
  · rw [hresult, u32_low, hline]

/-- Settles O32: the position moves to a place of the frame, whose flat index is below the number of samples, or behind
its last row, where the flat index is that number. -/
theorem positionAdvancesInRasterOrder : Obligations.PositionAdvancesInRasterOrder := by
  intro s t v ha hpos h
  obtain ⟨x, r, rfl⟩ := exec_sample_cases ha h
  have hindex := sampleIndex_advance (s := storeSample x { s with result := r }) hpos
  rcases advance_active_or_done (s := storeSample x { s with result := r }) ha hpos
    with ⟨hp, hin⟩ | ⟨hp, hrow, hcol, hch⟩
  · have hlt := sampleIndex_lt hin
    simp only [advance_fw, advance_fh, advance_fc, storeSample_fw, storeSample_fh, storeSample_fc] at hlt
    exact ⟨hindex, fun _ => ⟨hp, hin⟩, fun heq => absurd heq hlt.ne, hlt.le⟩
  · have hend := sampleIndex_of_end (hrow.trans (advance_fh _).symm) hcol hch
    simp only [advance_fw, advance_fh, advance_fc, storeSample_fw, storeSample_fh, storeSample_fc] at hend
    exact ⟨hindex, fun hlt => absurd hend hlt.ne, fun _ => ⟨hp, hrow, hcol, hch⟩, hend.le⟩

/-- Settles O55: each command is in the frame of all three, PRED_INIT with RESULT kept, the others with the latched
frame kept. -/
theorem predictorCommandsFrame : Obligations.PredictorCommandsFrame := by
  intro i s t v h hi
  obtain ⟨hframe, hkept⟩ : PredictorFrame s t
      ∧ ((i = .predInit ∧ t.result = s.result) ∨ (i ≠ .predInit ∧ SameLatchedFrame s t)) := by
    rcases hi with rfl | rfl | rfl
    · exact (predictorFrame_of_execPredInit h).imp_right fun hr => .inl ⟨rfl, hr⟩
    · exact (predictorFrame_of_execPredRes h).imp_right fun hl => .inr ⟨nofun, hl⟩
    · exact (predictorFrame_of_execPredRec h).imp_right fun hl => .inr ⟨nofun, hl⟩
  rw [hframe.mem]
  exact ⟨hframe.config, hframe.escapes, hframe.coder, hframe.port, hframe.modelValid, rfl, rfl, rfl, rfl, rfl,
    hframe.line, hframe.aboveLeft, fun hi => hkept.elim (·.2) fun hl => absurd hi hl.1,
    fun hi => hkept.elim (fun hr => absurd hr.1 hi) (·.2), hframe.fault⟩
end

section
/-! The prediction over a frame's samples, and the residual round trip (41_predictor.md R182 to R191). -/
namespace Sys2Proof.Machine

/-! ## The neighbours by their guards -/

theorem half_pos_of_ne_zero {x : Half} (h : x ≠ 0) : 0 < x.toNat := Nat.pos_of_ne_zero (mt half_eq_zero_iff.2 h)

section
variable {s : State}

theorem leftNeighbour_of_first (h : s.col = 0) : leftNeighbour s = 0 := if_pos h

theorem leftNeighbour_of_col (h : s.col ≠ 0) : leftNeighbour s = (readLine s s.ch (s.col.toNat - 1)).toInt := if_neg h

theorem aboveNeighbour_of_first (h : s.row = 0) : aboveNeighbour s = 0 := if_pos h

theorem aboveNeighbour_of_row (h : s.row ≠ 0) : aboveNeighbour s = (readLine s s.ch s.col.toNat).toInt := if_neg h

theorem aboveLeftNeighbour_of_first (h : s.row = 0 ∨ s.col = 0) : aboveLeftNeighbour s = 0 := if_pos h

theorem aboveLeftNeighbour_of_row_col (hr : s.row ≠ 0) (hc : s.col ≠ 0) :
    aboveLeftNeighbour s = (readAboveLeft s s.ch).toInt := if_neg (not_or.2 ⟨hr, hc⟩)

end

/-! ## The neighbours among the frame's samples -/

/-- Sample (r, j) of the channel of the next one, among the frame's stored samples vs. -/
def causalSample (s : State) (vs : List Half) (r j : Nat) : Int :=
  ((vs[rasterIndex s r j s.ch.toNat]?).getD 0).toInt

theorem causalSample_of_getElem? {s : State} {vs : List Half} {r j : Nat} {a : Half}
    (h : vs[rasterIndex s r j s.ch.toNat]? = some a) : causalSample s vs r j = a.toInt := by
  rw [causalSample, h, Option.getD_some]

/-- The prediction of the next sample from the frame's stored samples alone. -/
def causalPrediction (s : State) (vs : List Half) : Int :=
  med (if s.col = 0 then 0 else causalSample s vs s.row.toNat (s.col.toNat - 1))
    (if s.row = 0 then 0 else causalSample s vs (s.row.toNat - 1) s.col.toNat)
    (if s.row = 0 ∨ s.col = 0 then 0 else causalSample s vs (s.row.toNat - 1) (s.col.toNat - 1))

section
variable {s : State} {vs : List Half} (hpos : PositionInFrame s) (h : HoldsContext s vs)
include hpos h

/-- The left neighbour is the sample left of the next one (R184, R185). -/
theorem exists_leftNeighbour (hcol : s.col ≠ 0) :
    ∃ a, vs[rasterIndex s s.row.toNat (s.col.toNat - 1) s.ch.toNat]? = some a ∧ leftNeighbour s = a.toInt := by
  have hcol0 := half_pos_of_ne_zero hcol
  obtain ⟨-, hfw, hch⟩ := hpos
  obtain ⟨hlen, hdone, -, -, -⟩ := h
  have hp : Passed s s.ch (s.col.toNat - 1) := .inl (by omega)
  have hlt := rasterIndex_lt_of_passed hch hp
  rw [← hlen] at hlt
  have hline := hdone s.ch (s.col.toNat - 1) hch (by omega) hp
  rw [List.getElem?_eq_getElem hlt] at hline ⊢
  exact ⟨_, rfl, by rw [leftNeighbour_of_col hcol, readLine_of_get hline]⟩

/-- The above neighbour is the sample above the next one (R184, R185). -/
theorem exists_aboveNeighbour (hrow : s.row ≠ 0) :
    ∃ b, vs[rasterIndex s (s.row.toNat - 1) s.col.toNat s.ch.toNat]? = some b ∧ aboveNeighbour s = b.toInt :=
  ⟨_, (some_readLine_eq_above h hpos (half_pos_of_ne_zero hrow)).symm, aboveNeighbour_of_row hrow⟩

/-- The above-left neighbour is the sample above-left of the next one (R184, R185). -/
theorem exists_aboveLeftNeighbour (hrow : s.row ≠ 0) (hcol : s.col ≠ 0) :
    ∃ c, vs[rasterIndex s (s.row.toNat - 1) (s.col.toNat - 1) s.ch.toNat]? = some c
      ∧ aboveLeftNeighbour s = c.toInt := by
  have hrow0 := half_pos_of_ne_zero hrow
  obtain ⟨-, hfw, hch⟩ := hpos
  obtain ⟨hlen, -, -, hcp, -⟩ := h
  have hlt := rasterIndex_above_lt (j := s.col.toNat - 1) hch (by omega) hrow0
  rw [← hlen] at hlt
  have hentry := hcp s.ch hch le_rfl hrow0 (half_pos_of_ne_zero hcol)
  rw [List.getElem?_eq_getElem hlt] at hentry ⊢
  exact ⟨_, rfl, by rw [aboveLeftNeighbour_of_row_col hrow hcol, readAboveLeft_of_get hentry]⟩

/-- The prediction is that of the samples: no unwritten entry takes part (R185). -/
theorem prediction_eq_causalPrediction : prediction s = causalPrediction s vs := by
  have hleft : leftNeighbour s
      = if s.col = 0 then 0 else causalSample s vs s.row.toNat (s.col.toNat - 1) := by
    split
    · exact leftNeighbour_of_first ‹_›
    · obtain ⟨a, ha, hl⟩ := exists_leftNeighbour hpos h ‹_›
      exact hl.trans (causalSample_of_getElem? ha).symm
  have habove : aboveNeighbour s
      = if s.row = 0 then 0 else causalSample s vs (s.row.toNat - 1) s.col.toNat := by
    split
    · exact aboveNeighbour_of_first ‹_›
    · obtain ⟨b, hb, hu⟩ := exists_aboveNeighbour hpos h ‹_›
      exact hu.trans (causalSample_of_getElem? hb).symm
  have haboveLeft : aboveLeftNeighbour s
      = if s.row = 0 ∨ s.col = 0 then 0 else causalSample s vs (s.row.toNat - 1) (s.col.toNat - 1) := by
    split
    · exact aboveLeftNeighbour_of_first ‹_›
    · rename_i hrc
      obtain ⟨hrow, hcol⟩ := not_or.1 hrc
      obtain ⟨c, hc, hu⟩ := exists_aboveLeftNeighbour hpos h hrow hcol
      exact hu.trans (causalSample_of_getElem? hc).symm
  rw [prediction, causalPrediction, hleft, habove, haboveLeft]

end

theorem PositionInFrame.of_same {s t : State} (h : PositionInFrame s) (hsame : SamePredictor s t) :
    PositionInFrame t := by
  obtain ⟨hrow, hcol, hch, -, hfw, hfh, hfc, -, -⟩ := hsame
  unfold PositionInFrame
  rwa [hrow, hcol, hch, hfh, hfw, hfc]

/-- Two states at one position with one context predict the same. -/
theorem prediction_eq_of_holdsContext {s t : State} {vs : List Half} (hpos : PositionInFrame s)
    (hsame : SamePredictor s t) (hs : HoldsContext s vs) (ht : HoldsContext t vs) : prediction t = prediction s := by
  rw [prediction_eq_causalPrediction hpos hs, prediction_eq_causalPrediction (hpos.of_same hsame) ht]
  obtain ⟨hrow, hcol, hch, -, hfw, -, hfc, -, -⟩ := hsame
  simp only [causalPrediction, causalSample, rasterIndex, hrow, hcol, hch, hfw, hfc]

/-! ## The prediction's range -/

theorem toInt_bounds_of_toNat_le {v : Half} (h : v.toNat ≤ 255) : 0 ≤ v.toInt ∧ v.toInt ≤ 255 := by
  rw [BitVec.toInt_eq_toNat_of_lt (by omega)]
  omega

section
variable {s : State} (hd : s.fd = 0) (hpos : PositionInFrame s) (hctx : ContextWritten s)
include hd hpos hctx

theorem leftNeighbour_bounds : 0 ≤ leftNeighbour s ∧ leftNeighbour s ≤ 255 := by
  by_cases hcol : s.col = 0
  · rw [leftNeighbour_of_first hcol]; omega
  · have hcol0 := half_pos_of_ne_zero hcol
    obtain ⟨-, hfw, hch⟩ := hpos
    obtain ⟨x, hx, hin⟩ := hctx.1 s.ch (s.col.toNat - 1) hch (by omega) (.inr (.inl (by omega)))
    rw [leftNeighbour_of_col hcol, readLine_of_get hx]
    exact toInt_bounds_of_toNat_le (hin hd)

theorem aboveNeighbour_bounds : 0 ≤ aboveNeighbour s ∧ aboveNeighbour s ≤ 255 := by
  by_cases hrow : s.row = 0
  · rw [aboveNeighbour_of_first hrow]; omega
  · rw [aboveNeighbour_of_row hrow]
    exact toInt_bounds_of_toNat_le (readLine_written hpos hctx (half_pos_of_ne_zero hrow) hd)

/-- In the 8-bit domain the prediction is one of the domain: it lies between two neighbours that are (R182). -/
theorem prediction_bounds : 0 ≤ prediction s ∧ prediction s ≤ 255 := by
  have hmed := med_between (leftNeighbour s) (aboveNeighbour s) (aboveLeftNeighbour s)
  have hleft := leftNeighbour_bounds hd hpos hctx
  have habove := aboveNeighbour_bounds hd hpos hctx
  rw [prediction]
  omega

end

/-! ## Wrapped residuals -/

theorem wrap16_of_fits {x : Int} (h : -2 ^ 15 ≤ x) (h' : x < 2 ^ 15) : wrap16 x = x := by
  rw [wrap16, BitVec.toInt_ofInt]
  exact Int.bmod_eq_of_le (by omega) (by omega)

theorem wrap16_add_wrap16 (p x : Int) : wrap16 (p + wrap16 x) = wrap16 (p + x) := by
  simp only [wrap16, BitVec.toInt_ofInt]
  exact Int.add_bmod_bmod

theorem wrap16_toInt (v : Half) : wrap16 v.toInt = v.toInt := by rw [wrap16, BitVec.ofInt_toInt]

/-- A wrapped value is a residual operand's, by its low half. -/
theorem residualOperand_u16_wrap16 (x : Int) : residualOperand (u16 (wrap16 x)) = wrap16 x := wrap16_toInt _

theorem toInt_u32_wrap16 (x : Int) : (u32 (wrap16 x)).toInt = wrap16 x := by
  rw [u32_wrap16, BitVec.toInt_signExtend_of_le (by decide)]
  rfl

theorem u32_sampleOperand (d : BitVec 1) (v : Half) :
    u32 (sampleOperand d v) = if d = 0 then v.setWidth 32 else v.signExtend 32 := by
  unfold sampleOperand
  split
  · exact BitVec.eq_of_toNat_eq (by simp [u32])
  · rfl

/-- In the 8-bit domain the difference of sample and prediction fits 16 bits, so nothing is lost (R190). -/
theorem add_residual_of_byte {v : Half} {p : Int} (hv : v.toNat ≤ 255) (hp : 0 ≤ p ∧ p ≤ 255) :
    p + wrap16 (v.toNat - p) = v.toNat := by
  rw [wrap16_of_fits (by omega) (by omega)]
  omega

/-- In the 16-bit domain the sum wraps back to the sample (R190). -/
theorem wrap16_add_residual (v : Half) (p : Int) : wrap16 (p + wrap16 (v.toInt - p)) = v.toInt := by
  rw [wrap16_add_wrap16, add_sub_cancel, wrap16_toInt]

/-- From the prediction that gave the residual, reconstruction gives the sample back (R190). -/
theorem reconstructed_residual {s : State} {v : Half} (hv : s.fd = 0 → v.toNat ≤ 255)
    (hp : s.fd = 0 → 0 ≤ prediction s ∧ prediction s ≤ 255) :
    reconstructed s (wrap16 (sampleOperand s.fd v - prediction s)) = sampleOperand s.fd v := by
  unfold reconstructed sampleOperand
  by_cases hd : s.fd = 0
  · have := hv hd
    rw [if_pos hd, if_pos hd, add_residual_of_byte (hv hd) (hp hd), clamp]
    omega
  · rw [if_neg hd, if_neg hd]
    exact wrap16_add_residual v _

theorem reconstructed_eq_of_prediction_eq {s t : State} (hd : t.fd = s.fd) (hp : prediction t = prediction s)
    (r : Int) :
    reconstructed t r = reconstructed s r := by
  rw [reconstructed, reconstructed, hd, hp]

/-- RESULT takes no part in the move. -/
theorem advance_withResult (r : Word) (s : State) :
    advance { s with result := r } = { advance s with result := r } := by
  by_cases hch : s.ch + 1 = s.fc
  · by_cases hcol : s.col + 1 = s.fw
    · simp only [advance, if_pos hch, if_pos hcol]
    · simp only [advance, if_pos hch, if_neg hcol]
  · simp only [advance, if_neg hch]

end Sys2Proof.Machine

open Sys2Proof Sys2Proof.Machine

/-- Settles O34: the guards of R184, and in a frame the entry behind each guard is the stored sample. -/
theorem neighboursAreTheCausalSamples : Obligations.NeighboursAreTheCausalSamples :=
  ⟨fun _ => ⟨leftNeighbour_of_first, leftNeighbour_of_col, aboveNeighbour_of_first, aboveNeighbour_of_row,
      aboveLeftNeighbour_of_first, aboveLeftNeighbour_of_row_col, rfl⟩,
    fun _ _ hpos h =>
      ⟨exists_leftNeighbour hpos h, exists_aboveNeighbour hpos h, exists_aboveLeftNeighbour hpos h⟩⟩

/-- Settles O35: the invariant keeps the 8-bit prediction in its domain, so reconstruction gives the sample, and both
commands store it. -/
theorem reconstructionInvertsResidual : Obligations.ReconstructionInvertsResidual := by
  intro s v hinv ha hv
  obtain ⟨-, -, hpos, hctx⟩ := (predictorOk_iff_of_active ha).1 hinv.predictor
  have hp (hd : s.fd = 0) := prediction_bounds hd hpos hctx
  refine ⟨_, exec_predRes_of_sample ha hv, fun hd => ?_, fun hd => ?_, ?_⟩
  · rw [advance_result, storeSample_result, toInt_u32_wrap16, sampleOperand, if_pos hd]
    exact add_residual_of_byte (hv hd) (hp hd)
  · rw [advance_result, storeSample_result, toInt_u32_wrap16, sampleOperand, if_neg hd]
    exact wrap16_add_residual v _
  · rw [advance_result, storeSample_result, u32_low, exec_predRec_of_active ha, residualOperand_u16_wrap16,
      reconstructed_residual hv hp, ← u32_sampleOperand]
    exact congrArg Host.Outcome.next (advance_withResult _ (storeSample (sampleOperand s.fd v)
      { s with result := u32 (wrap16 (sampleOperand s.fd v - prediction s)) }))
end

section
/-! PRED_RES over a grid and PRED_REC over its residuals (41_predictor.md R191): both runs hold the same samples as
their context, so they predict alike, whatever else their tables hold. -/
namespace Sys2Proof.Machine

/-! ## Command sequences -/

/-- One command of a sequence, without a fault, and the rest from where it ends. -/
theorem execEach_cons_eq_some_iff {α : Type} {command : α → Instr} {a : α} {l : List α} {s u : State}
    {ws : List Word} :
    execEach command (a :: l) s = some (ws, u) ↔ ∃ t vs, exec (command a) s = .next t ∧ t.fault = none
      ∧ execEach command l t = some (vs, u) ∧ ws = t.result :: vs := by
  obtain ⟨t, ht⟩ := exec_completes (command a) s
  simp only [execEach, ht, Host.Outcome.next.injEq]
  constructor
  · intro h
    split at h
    · cases h
    · rename_i hf
      split at h
      · rename_i vs u' he
        cases h
        exact ⟨t, vs, rfl, by simpa using hf, he, rfl⟩
      · cases h
  · rintro ⟨_, vs, rfl, hf, he, rfl⟩
    simp [hf, he]

/-- What every command of a sequence keeps where it raises no fault, the sequence keeps. -/
theorem execEach_keeps {α : Type} {command : α → Instr} {P : State → Prop}
    (hstep : ∀ a s t, P s → exec (command a) s = .next t → t.fault = none → P t) {l : List α} {s u : State}
    {ws : List Word} (hs : P s) (h : execEach command l s = some (ws, u)) : P u := by
  induction l generalizing s ws with
  | nil => cases h; exact hs
  | cons a l ih =>
    obtain ⟨t, vs, ht, hf, hrest, -⟩ := execEach_cons_eq_some_iff.1 h
    exact ih (hstep a s t hs ht hf) hrest

/-! ## A run over a frame -/

/-- How many samples the latched frame has. -/
abbrev frameSize (s : State) : Nat := s.fw.toNat * s.fh.toNat * s.fc.toNat

theorem sampleIndex_startFrame (s : State) : sampleIndex (startFrame s) = 0 := by simp [sampleIndex]

theorem frameSize_advance_storeSample (s : State) (x : Int) (r : Word) :
    frameSize (advance (storeSample x { s with result := r })) = frameSize s := by
  obtain ⟨hfw, hfh, hfc, -⟩ := sameLatchedFrame_advance_storeSample s x r
  rw [frameSize, hfw, hfh, hfc]

/-- A frame was started, and no command of it has faulted. -/
structure Running (s : State) : Prop where
  predictor : PredictorOk s
  started : s.pstate ≠ .off
  noFault : s.fault = none

namespace Running
variable {s : State}

theorem position (h : Running s) (ha : s.pstate = .active) : PositionInFrame s ∧ ContextWritten s := by
  obtain ⟨-, -, hpos, hctx⟩ := (predictorOk_iff_of_active ha).1 h.predictor
  exact ⟨hpos, hctx⟩

/-- A started frame is at a next sample, or at its end. -/
theorem active_or_done (h : Running s) :
    (s.pstate = .active ∧ sampleIndex s < frameSize s) ∨ (s.pstate = .done ∧ sampleIndex s = frameSize s) := by
  cases hp : s.pstate with
  | off => exact absurd hp h.started
  | active => exact .inl ⟨rfl, sampleIndex_lt (h.position hp).1⟩
  | done =>
    obtain ⟨-, -, hrow, hcol, hch⟩ := (predictorOk_iff_of_done hp).1 h.predictor
    exact .inr ⟨rfl, sampleIndex_of_end hrow hcol hch⟩

theorem active_of_lt (h : Running s) (hlt : sampleIndex s < frameSize s) : s.pstate = .active :=
  h.active_or_done.elim (·.1) fun hd => absurd hd.2 hlt.ne

theorem done_of_eq (h : Running s) (heq : sampleIndex s = frameSize s) : s.pstate = .done :=
  h.active_or_done.elim (fun ha => absurd heq ha.2.ne) (·.1)

/-- An accepted PRED_INIT starts a run, in whatever PSTATE (R183). -/
theorem startFrame (hf : s.fault = none)
    (hc : configProblem s.cfg (widthField s.predSize) (heightField s.predSize) s.predChannels = none) :
    Running (startFrame s) where
  predictor := predictorOk_startFrame hc
  started := nofun
  noFault := hf

theorem advance_storeSample (h : Running s) (ha : s.pstate = .active) {x : Int} (hx : InDomain s (u16 x)) (r : Word) :
    Running (advance (storeSample x { s with result := r })) where
  predictor := predictorOk_advance_storeSample (s := { s with result := r }) ha h.predictor hx
  started hoff := by
    rcases advance_active_or_done (s := storeSample x { s with result := r }) ha (h.position ha).1
      with ⟨hp, -⟩ | ⟨hp, -⟩ <;> cases hp.symm.trans hoff
  noFault := (advance_fault _).trans h.noFault

theorem sampleIndex_advance_storeSample (h : Running s) (ha : s.pstate = .active) (x : Int) (r : Word) :
    sampleIndex (advance (storeSample x { s with result := r })) = sampleIndex s + 1 :=
  sampleIndex_advance (s := storeSample x { s with result := r }) (h.position ha).1

/-- PRED_RES over the rest of a frame's samples completes, with no fault, at the frame's end. -/
theorem execEach_predRes (h : Running s) {grid : List Half} (hsize : sampleIndex s + grid.length = frameSize s)
    (hv : s.fd = 0 → ∀ v ∈ grid, v.toNat ≤ 255) :
    ∃ res u, execEach .predRes grid s = some (res, u) ∧ u.pstate = .done := by
  induction grid generalizing s with
  | nil => exact ⟨[], s, rfl, h.done_of_eq hsize⟩
  | cons v grid ih =>
    rw [List.length_cons] at hsize
    have ha := h.active_of_lt (by omega)
    have hv0 (hd : s.fd = 0) : v.toNat ≤ 255 := hv hd v List.mem_cons_self
    have hx : InDomain s (u16 (sampleOperand s.fd v)) := by rwa [u16_sampleOperand]
    have hnext := h.advance_storeSample ha hx (u32 (wrap16 (sampleOperand s.fd v - prediction s)))
    have hexec := exec_predRes_of_sample ha hv0
    have hindex := h.sampleIndex_advance_storeSample ha (sampleOperand s.fd v)
      (u32 (wrap16 (sampleOperand s.fd v - prediction s)))
    obtain ⟨res, u, hrest, hdone⟩ := ih hnext (by rw [hindex, frameSize_advance_storeSample]; omega)
      fun hd w hw => hv (by simpa using hd) w (List.mem_cons_of_mem v hw)
    exact ⟨_, u, execEach_cons_eq_some_iff.2 ⟨_, res, hexec, hnext.noFault, hrest, rfl⟩, hdone⟩

end Running

/-! ## Two runs over the same samples -/

theorem samePredictor_startFrame {s t : State} (h : SameFrameConfig s t) :
    SamePredictor (startFrame s) (startFrame t) := by
  obtain ⟨hsize, hchannels, hdomain⟩ := h
  exact ⟨rfl, rfl, rfl, rfl, congrArg widthField hsize, congrArg heightField hsize, hchannels, hdomain, rfl⟩

/-- The move depends on the predictor alone. -/
theorem SamePredictor.advance {s t : State} (h : SamePredictor s t) :
    SamePredictor (Machine.advance s) (Machine.advance t) := by
  obtain ⟨hrow, hcol, hch, hcnt, hfw, hfh, hfc, hfd, hps⟩ := h
  unfold Machine.advance
  rw [hrow, hcol, hch, hcnt, hfw, hfh, hfc, hfd, hps]
  split
  · split
    · exact ⟨rfl, rfl, rfl, rfl, rfl, rfl, rfl, rfl, rfl⟩
    · exact ⟨rfl, rfl, rfl, rfl, rfl, rfl, rfl, rfl, rfl⟩
  · exact ⟨rfl, rfl, rfl, rfl, rfl, rfl, rfl, rfl, rfl⟩

/-- Of the predictor's registers a sample command's storing changes the count alone (R186). -/
theorem SamePredictor.storeSample {s t : State} (h : SamePredictor s t) (x : Int) (r q : Word) :
    SamePredictor (storeSample x { s with result := r }) (storeSample x { t with result := q }) := by
  obtain ⟨hrow, hcol, hch, hcnt, hlatched⟩ := h
  exact ⟨hrow, hcol, hch, congrArg (· + 1) hcnt, hlatched⟩

/-- A run of PRED_RES from s and one of PRED_REC from t, both after the samples vs. -/
structure InStep (s t : State) (vs : List Half) : Prop where
  running : Running s
  same : SamePredictor s t
  noFault : t.fault = none
  contextRes : HoldsContext s vs
  contextRec : HoldsContext t vs

/-- PRED_REC of the residual that PRED_RES gives reconstructs the sample, and the runs stay in step (R190). -/
theorem InStep.predRec {s t s' : State} {vs : List Half} (h : InStep s t vs) {v : Half}
    (he : exec (.predRes v) s = .next s') (hf : s'.fault = none) :
    ∃ t', exec (.predRec (s'.result.setWidth 16)) t = .next t' ∧ t'.result.setWidth 16 = v
      ∧ InStep s' t' (vs ++ [v]) := by
  rcases execPredRes_cases he with ⟨-, rfl⟩ | ⟨-, -, -, rfl⟩ | ⟨ha, hv, rfl⟩
  · cases hf
  · cases hf
  · obtain ⟨hpos, hctx⟩ := h.running.position ha
    obtain ⟨-, -, -, -, -, -, -, hfd, hps⟩ := id h.same
    have hval : reconstructed t (wrap16 (sampleOperand s.fd v - prediction s)) = sampleOperand s.fd v := by
      rw [reconstructed_eq_of_prediction_eq hfd (prediction_eq_of_holdsContext hpos h.same h.contextRes h.contextRec)]
      exact reconstructed_residual hv fun hd => prediction_bounds hd hpos hctx
    have hexec := exec_predRec_of_active (hps.trans ha) (u16 (wrap16 (sampleOperand s.fd v - prediction s)))
    rw [residualOperand_u16_wrap16, hval] at hexec
    have hstored (u : State) (hu : HoldsContext u vs) (hposu : PositionInFrame u) (r : Word) :=
      holdsContext_advance_storeSample_withResult hu hposu (sampleOperand s.fd v) r
    simp only [u16_sampleOperand] at hstored
    refine ⟨_, by rw [advance_result, storeSample_result, u32_low]; exact hexec, ?_, ?_⟩
    · rw [advance_result, storeSample_result, u32_low, u16_sampleOperand]
    · exact {
        running := h.running.advance_storeSample ha (by rwa [u16_sampleOperand]) _
        same := (h.same.storeSample _ _ _).advance
        noFault := (advance_fault _).trans h.noFault
        contextRes := hstored s h.contextRes hpos _
        contextRec := hstored t h.contextRec (hpos.of_same h.same) _ }

/-- PRED_REC over the residuals of a run of PRED_RES gives its samples back, and ends where that run ended. -/
theorem InStep.execEach_predRec {s t u : State} {vs grid : List Half} {res : List Word} (h : InStep s t vs)
    (he : execEach .predRes grid s = some (res, u)) :
    ∃ out t', execEach .predRec (res.map (fun x : Word => x.setWidth 16)) t = some (out, t')
      ∧ out.map (fun x : Word => x.setWidth 16) = grid ∧ InStep u t' (vs ++ grid) := by
  induction grid generalizing s t vs res with
  | nil =>
    cases he
    exact ⟨[], t, rfl, rfl, by rwa [List.append_nil]⟩
  | cons v grid ih =>
    obtain ⟨s', res', hs', hf, hrest, rfl⟩ := execEach_cons_eq_some_iff.1 he
    obtain ⟨t', ht', hv, hstep⟩ := h.predRec hs' hf
    obtain ⟨out, t'', hout, hgrid, hend⟩ := ih hstep hrest
    refine ⟨t'.result :: out, t'', ?_, by rw [List.map_cons, hv, hgrid], by rwa [List.append_cons]⟩
    exact execEach_cons_eq_some_iff.2 ⟨t', out, ht', hstep.noFault, hout, rfl⟩

/-- A run of PRED_RES keeps what PRED_INIT reads: the parameters and the host's frame configuration. -/
theorem frameConfig_of_execEach_predRes {s u : State} {grid : List Half} {res : List Word} (hs : s.fault = none)
    (h : execEach .predRes grid s = some (res, u)) : u.cfg = s.cfg ∧ SameFrameConfig s u ∧ u.fault = none := by
  refine execEach_keeps (P := fun u => u.cfg = s.cfg ∧ SameFrameConfig s u ∧ u.fault = none)
    (fun v t t' ht he hf => ?_) ⟨rfl, ⟨rfl, rfl, rfl⟩, hs⟩ h
  obtain ⟨hcfg, ⟨hsize, hchannels, hdomain⟩, -⟩ := ht
  obtain ⟨hframe, -⟩ := predictorFrame_of_execPredRes he
  obtain ⟨hsize', hchannels', hdomain'⟩ := hframe.config
  exact ⟨hframe.port.1.trans hcfg, ⟨hsize'.trans hsize, hchannels'.trans hchannels, hdomain'.trans hdomain⟩, hf⟩

end Sys2Proof.Machine

open Sys2Proof Sys2Proof.Machine

/-- Settles O36: the runs start in step, with the context of no samples, and stay in step. -/
theorem predictorRoundTrip : Obligations.PredictorRoundTrip := by
  intro s grid w h _ hf hw hmax hh hn hsize hv
  have hc := configProblem_of_frame (c := s.cfg) (w := w) (h := h) ⟨hw, hmax⟩ hh hn
  have hrun : Running (startFrame s) := .startFrame hf hc
  have hlen : sampleIndex (startFrame s) + grid.length = frameSize (startFrame s) := by
    rw [sampleIndex_startFrame, Nat.zero_add]
    exact hsize
  obtain ⟨res, s2, hres, hdone⟩ := hrun.execEach_predRes hlen hv
  obtain ⟨hcfg, hconfig, hf2⟩ := frameConfig_of_execEach_predRes hrun.noFault hres
  have hc2 : configProblem s2.cfg (widthField s2.predSize) (heightField s2.predSize) s2.predChannels = none := by
    obtain ⟨hpsize, hchannels, -⟩ := id hconfig
    rw [hcfg, hpsize, hchannels]
    exact hc
  have hstep : InStep (startFrame s) (startFrame s2) [] :=
    { running := hrun
      same := samePredictor_startFrame hconfig
      noFault := hf2
      contextRes := holdsContext_startFrame s
      contextRec := holdsContext_startFrame s2 }
  obtain ⟨out, s4, hout, hgrid, hend⟩ := hstep.execEach_predRec hres
  obtain ⟨-, -, -, -, -, -, -, -, hps⟩ := hend.same
  exact ⟨_, res, s2, _, out, s4, exec_predInit_of_legal hc, hres, exec_predInit_of_legal hc2, hout, hgrid, hdone,
    hps.trans hdone⟩
end

section
/-! Zigzag and the symbolizer's commands (42_symbolizer.md R220 to R226). -/
namespace Sys2Proof.Machine

/-! ## Zigzag -/

theorem zigzag_of_nonneg {r : Int} (h : 0 ≤ r) : (zigzag r : Int) = 2 * r := by
  rw [zigzag, if_pos h]
  exact Int.toNat_of_nonneg (by omega)

theorem zigzag_of_neg {r : Int} (h : r < 0) : (zigzag r : Int) = -2 * r - 1 := by
  rw [zigzag, if_neg (by omega)]
  exact Int.toNat_of_nonneg (by omega)

theorem unzigzag_of_even {u : Nat} (h : u % 2 = 0) : unzigzag u = (u / 2 : Nat) := if_pos h

theorem unzigzag_of_odd {u : Nat} (h : u % 2 = 1) : unzigzag u = -((u + 1) / 2 : Nat) := if_neg (by omega)

/-- The code is even for a residual of at least 0 and odd for one below 0, so the inverse knows the sign (R221). -/
theorem unzigzag_zigzag (r : Int) : unzigzag (zigzag r) = r := by
  rcases le_or_gt 0 r with h | h
  · have hz := zigzag_of_nonneg h
    rw [unzigzag_of_even (by omega)]
    omega
  · have hz := zigzag_of_neg h
    rw [unzigzag_of_odd (by omega)]
    omega

theorem zigzag_unzigzag (u : Nat) : zigzag (unzigzag u) = u := by
  rcases Nat.mod_two_eq_zero_or_one u with h | h
  · have hz := zigzag_of_nonneg (r := (u / 2 : Nat)) (by omega)
    rw [unzigzag_of_even h]
    omega
  · have hz := zigzag_of_neg (r := -((u + 1) / 2 : Nat)) (by omega)
    rw [unzigzag_of_odd h]
    omega

theorem unzigzag_bounds {u : Nat} (h : u < 65536) : -32768 ≤ unzigzag u ∧ unzigzag u ≤ 32767 := by
  rcases Nat.mod_two_eq_zero_or_one u with hu | hu
  · rw [unzigzag_of_even hu]
    omega
  · rw [unzigzag_of_odd hu]
    omega

/-- A 16-bit residual's code has 16 bits. -/
theorem zigzag_lt {r : Int} (h : -2 ^ 15 ≤ r ∧ r < 2 ^ 15) : zigzag r < 65536 := by
  rcases le_or_gt 0 r with hr | hr
  · have hz := zigzag_of_nonneg hr
    omega
  · have hz := zigzag_of_neg hr
    omega

/-- The residuals with a direct symbol (R222). -/
theorem zigzag_lt_escSym_iff {r : Int} : zigzag r < 4095 ↔ -2047 ≤ r ∧ r ≤ 2047 := by
  rcases le_or_gt 0 r with h | h
  · have hz := zigzag_of_nonneg h
    omega
  · have hz := zigzag_of_neg h
    omega

/-- The residuals that are escaped (R222). -/
theorem escSym_le_zigzag_iff {r : Int} : 4095 ≤ zigzag r ↔ r < -2047 ∨ 2047 < r := by
  rw [← not_lt, zigzag_lt_escSym_iff]
  omega

/-! ## The shift-and-XOR form -/

theorem half_toInt_bounds (r : Half) : -2 ^ 15 ≤ r.toInt ∧ r.toInt < 2 ^ 15 := ⟨r.le_toInt, r.toInt_lt⟩

theorem shiftLeft_one_eq_ofInt {w : Nat} (x : BitVec w) : x <<< 1 = BitVec.ofInt w (2 * x.toInt) := by
  have htwo : BitVec.twoPow w 1 = BitVec.ofInt w 2 :=
    BitVec.eq_of_toNat_eq ((BitVec.toNat_twoPow w 1).trans (BitVec.toNat_ofNat 2 w).symm)
  rw [BitVec.shiftLeft_eq_mul_twoPow, htwo, BitVec.mul_comm, BitVec.ofInt_mul, BitVec.ofInt_toInt]

/-- A shift right by 15 leaves the sign of a 16-bit value in every bit, in any width. -/
theorem sshiftRight_fifteen {w : Nat} {x : BitVec w} (h : -2 ^ 15 ≤ x.toInt ∧ x.toInt < 2 ^ 15) :
    x.sshiftRight 15 = if 0 ≤ x.toInt then 0#w else BitVec.allOnes w := by
  have hdiv : (x.sshiftRight 15).toInt = x.toInt / 2 ^ 15 :=
    BitVec.toInt_sshiftRight.trans (Int.shiftRight_eq_div_pow _ _)
  rw [← BitVec.ofInt_toInt (x := x.sshiftRight 15), hdiv]
  split
  · rw [show x.toInt / 2 ^ 15 = 0 by omega]
    rfl
  · rw [show x.toInt / 2 ^ 15 = -1 by omega, BitVec.ofInt_neg, ← BitVec.neg_one_eq_allOnes]
    rfl

/-- Zigzag of a 16-bit value by shifts and XOR, in any width (R220): XOR with the sign is the complement of a negative
double, which is -2r - 1. -/
theorem shiftXor_eq_ofNat_zigzag {w : Nat} {x : BitVec w} (h : -2 ^ 15 ≤ x.toInt ∧ x.toInt < 2 ^ 15) :
    (x <<< 1) ^^^ (x.sshiftRight 15) = BitVec.ofNat w (zigzag x.toInt) := by
  rw [shiftLeft_one_eq_ofInt, sshiftRight_fifteen h, ← BitVec.ofInt_natCast w (zigzag x.toInt)]
  split
  · rw [zigzag_of_nonneg ‹_›, BitVec.xor_zero]
  · rw [zigzag_of_neg (by omega), BitVec.xor_allOnes, BitVec.not_eq_neg_add, ← BitVec.ofInt_neg, Int.neg_mul,
      Int.sub_eq_add_neg, BitVec.ofInt_add, BitVec.sub_eq_add_neg, BitVec.ofInt_neg (n := 1)]
    rfl

/-- The shift-and-XOR form loses nothing in 16 bits or more. -/
theorem toNat_shiftXor {w : Nat} {x : BitVec w} (hw : 16 ≤ w) (h : -2 ^ 15 ≤ x.toInt ∧ x.toInt < 2 ^ 15) :
    ((x <<< 1) ^^^ (x.sshiftRight 15)).toNat = zigzag x.toInt := by
  rw [shiftXor_eq_ofNat_zigzag h]
  exact toNat_ofNat_of_lt ((zigzag_lt h).trans_le (Nat.pow_le_pow_right Nat.two_pos hw))

/-! ## SYM_ENC and SYM_DEC -/

theorem exec_symEnc_of_direct {v : Half} (h : zigzag v.toInt < 4095) (s : State) :
    exec (.symEnc v) s = .next { s with result := BitVec.ofNat 32 (zigzag v.toInt) } :=
  congrArg Host.Outcome.next (if_pos h)

theorem exec_symEnc_of_escape {s : State} {v : Half} (h : 4095 ≤ zigzag v.toInt)
    (hfit : s.escLen.toNat < s.cfg.escDepth) : exec (.symEnc v) s = .next (appendEscape v s) :=
  congrArg Host.Outcome.next ((if_neg (Nat.not_lt.2 h)).trans (if_neg (Nat.not_le.2 hfit)))

theorem exec_symEnc_of_full {s : State} {v : Half} (h : 4095 ≤ zigzag v.toInt)
    (hfull : s.cfg.escDepth ≤ s.escLen.toNat) :
    exec (.symEnc v) s = .next (raise (encode (.symEnc v)) .escOverflow (s.escLen.setWidth 32) s) :=
  congrArg Host.Outcome.next ((if_neg (Nat.not_lt.2 h)).trans (if_pos hfull))

theorem exec_symDec_of_direct {y : Sym} (h : y.toNat < 4095) (s : State) :
    exec (.symDec y) s = .next { s with result := u32 (unzigzag y.toNat) } :=
  congrArg Host.Outcome.next (if_pos h.ne)

theorem exec_symDec_of_escape {s : State} {y : Sym} (h : y.toNat = 4095) (hrd : s.escRd.toNat < s.escLen.toNat) :
    exec (.symDec y) s
      = .next { s with result := (readEsc s s.escRd.toNat).signExtend 32, escRd := s.escRd + 1 } :=
  congrArg Host.Outcome.next ((if_neg (not_not.2 h)).trans (if_neg (Nat.not_le.2 hrd)))

theorem exec_symDec_of_usedUp {s : State} {y : Sym} (h : y.toNat = 4095) (hrd : s.escLen.toNat ≤ s.escRd.toNat) :
    exec (.symDec y) s = .next (raise (encode (.symDec y)) .escUnderflow (s.escRd.setWidth 32) s) :=
  congrArg Host.Outcome.next ((if_neg (not_not.2 h)).trans (if_pos hrd))

/-! ## What the symbolizer's commands leave unchanged -/

/-- What all three symbolizer commands leave unchanged (R223, R224, R226). -/
structure SymbolizerFrame (s t : State) : Prop where
  predictor : SamePredictor s t
  config : SameFrameConfig s t
  coder : SameCoder s t
  port : SamePort s t
  modelValid : t.modelValid = s.modelValid
  /-- Of the tables only ESC changes. -/
  mem : t.mem = { s.mem with esc := t.mem.esc }
  esc : ∀ a, a ≠ s.escLen.toNat → tableGet t.mem.esc a = tableGet s.mem.esc a
  fault : t.fault = s.fault ∨ t = { s with fault := t.fault }

namespace SymbolizerFrame

theorem raise (w : Word) (c : FaultCode) (info : Word) (s : State) : SymbolizerFrame s (raise w c info s) where
  predictor := ⟨rfl, rfl, rfl, rfl, rfl, rfl, rfl, rfl, rfl⟩
  config := ⟨rfl, rfl, rfl⟩
  coder := ⟨rfl, rfl, rfl, rfl⟩
  port := samePort_raise w c info s
  modelValid := rfl
  mem := rfl
  esc _ _ := rfl
  fault := .inr rfl

theorem withIndices (s : State) (r : Word) (n m : BitVec 19) :
    SymbolizerFrame s { s with result := r, escLen := n, escRd := m } where
  predictor := ⟨rfl, rfl, rfl, rfl, rfl, rfl, rfl, rfl, rfl⟩
  config := ⟨rfl, rfl, rfl⟩
  coder := ⟨rfl, rfl, rfl, rfl⟩
  port := ⟨rfl, rfl, rfl, rfl⟩
  modelValid := rfl
  mem := rfl
  esc _ _ := rfl
  fault := .inl rfl

theorem appendEscape (v : Half) (s : State) : SymbolizerFrame s (appendEscape v s) where
  predictor := ⟨rfl, rfl, rfl, rfl, rfl, rfl, rfl, rfl, rfl⟩
  config := ⟨rfl, rfl, rfl⟩
  coder := ⟨rfl, rfl, rfl, rfl⟩
  port := ⟨rfl, rfl, rfl, rfl⟩
  modelValid := rfl
  mem := rfl
  esc _ ha := tableGet_tableSet_of_ne _ _ ha
  fault := .inl rfl

end SymbolizerFrame

theorem symbolizerFrame_of_execSymEnc {v : Half} {s t : State} (h : execSymEnc v s = .next t) :
    SymbolizerFrame s t ∧ t.escRd = s.escRd := by
  rcases execSymEnc_cases h with ⟨-, rfl⟩ | ⟨-, -, rfl⟩ | ⟨-, -, rfl⟩
  · exact ⟨.withIndices s _ _ _, rfl⟩
  · exact ⟨.raise _ _ _ s, rfl⟩
  · exact ⟨.appendEscape v s, rfl⟩

theorem symbolizerFrame_of_execSymDec {y : Sym} {s t : State} (h : execSymDec y s = .next t) :
    SymbolizerFrame s t ∧ t.escLen = s.escLen := by
  rcases execSymDec_cases h with ⟨-, rfl⟩ | ⟨-, -, rfl⟩ | ⟨-, -, rfl⟩
  · exact ⟨.withIndices s _ _ _, rfl⟩
  · exact ⟨.raise _ _ _ s, rfl⟩
  · exact ⟨.withIndices s _ _ _, rfl⟩

end Sys2Proof.Machine

open Sys2Proof Sys2Proof.Machine

/-- Settles O37: the closed forms say where the sign goes, and the shift-and-XOR form is theirs in any width that holds
a residual. -/
theorem zigzagIsTheShiftXorBijection : Obligations.ZigzagIsTheShiftXorBijection := by
  refine ⟨fun r => ?_, fun u hu => ⟨unzigzag_of_even, unzigzag_of_odd, zigzag_unzigzag u, unzigzag_bounds hu⟩⟩
  have hr := half_toInt_bounds r
  have hwide : (r.signExtend 32).toInt = r.toInt := BitVec.toInt_signExtend_of_le (by decide)
  have h32 := toNat_shiftXor (x := r.signExtend 32) (by decide) (hwide ▸ hr)
  rw [hwide] at h32
  exact ⟨zigzag_of_nonneg, zigzag_of_neg, (toNat_shiftXor (by decide) hr).symm, h32.symm, zigzag_lt hr,
    unzigzag_zigzag _⟩

/-- Settles O38: 4094 is the code of 2047 and 4093 of -2047, and a larger residual of either sign has a larger code. -/
theorem directResidualsAreTheSmallOnes : Obligations.DirectResidualsAreTheSmallOnes := fun _ => zigzag_lt_escSym_iff

/-- Settles O39: SYM_INIT's rule is the assignment, and the decoder computes on its closed word. -/
theorem symInitClearsTheIndices : Obligations.SymInitClearsTheIndices := ⟨by decide, fun _ => rfl⟩

/-- Settles O40: SYM_ENC's three cases, with the symbol in the shift-and-XOR form and the escape written at ESC_LEN. -/
theorem symEncGivesSymbolOrEscape : Obligations.SymEncGivesSymbolOrEscape := by
  intro s v
  refine ⟨fun hv => ?_, fun hv hfit => ?_, fun hv hfull => exec_symEnc_of_full (escSym_le_zigzag_iff.2 hv) hfull⟩
  · have hz := zigzag_lt_escSym_iff.2 hv
    rw [exec_symEnc_of_direct hz, shiftXor_eq_ofNat_zigzag (half_toInt_bounds v),
      BitVec.setWidth_ofNat_of_le_of_lt (by decide) (zigzag_lt (half_toInt_bounds v))]
  · exact ⟨_, exec_symEnc_of_escape (escSym_le_zigzag_iff.2 hv) hfit, tableGet_tableSet_self _ _ _,
      (SymbolizerFrame.appendEscape v s).esc, rfl⟩

/-- Settles O41: SYM_DEC's cases, a direct symbol's by its lowest bit. -/
theorem symDecGivesResidualOrEscape : Obligations.SymDecGivesResidualOrEscape := by
  intro s y
  refine ⟨fun hy heven => ?_, fun hy hodd => ?_, exec_symDec_of_escape, fun hy hrd => ?_⟩
  · rw [exec_symDec_of_direct hy, unzigzag_of_even heven, u32, BitVec.ofInt_natCast]
  · rw [exec_symDec_of_direct hy, unzigzag_of_odd hodd, u32, BitVec.ofInt_neg, BitVec.ofInt_natCast]
  · obtain rfl : y = 4095#12 := BitVec.eq_of_toNat_eq hy
    exact exec_symDec_of_usedUp hy hrd

/-- Settles O56: each command is in the frame of all three, and keeps the register its rule does not name. -/
theorem symbolizerCommandsFrame : Obligations.SymbolizerCommandsFrame := by
  intro i s t v y h hi
  obtain ⟨hframe, hresult, hrd, hlen⟩ : SymbolizerFrame s t ∧ (i = .symInit → t.result = s.result)
      ∧ (i = .symEnc v → t.escRd = s.escRd) ∧ (i = .symDec y → t.escLen = s.escLen) := by
    rcases hi with rfl | rfl | rfl
    · cases h
      exact ⟨.withIndices s _ _ _, fun _ => rfl, nofun, nofun⟩
    · exact (symbolizerFrame_of_execSymEnc h).imp_right fun hr => ⟨nofun, fun _ => hr, nofun⟩
    · exact (symbolizerFrame_of_execSymDec h).imp_right fun hl => ⟨nofun, nofun, fun _ => hl⟩
  exact ⟨hframe.predictor, hframe.config, hframe.coder, hframe.port, hframe.modelValid, hframe.mem, hframe.esc,
    hresult, hrd, hlen, hframe.fault⟩
end

section
/-! SYM_ENC over a list of residuals and SYM_DEC over its symbols (42_symbolizer.md R228): the escape list holds the
residuals that have no direct symbol, in their order, and is consumed in that order. -/
namespace Sys2Proof.Machine

/-! ## The symbols and the escape list -/

/-- RESULT of SYM_ENC (R224): the direct symbol, or ESC_SYM. -/
def symbolWord (v : Half) : Word := BitVec.ofNat 32 (min (zigzag v.toInt) 4095)

/-- The residuals of a list that have no direct symbol. -/
def escapesOf (res : List Half) : List Half := res.filter (fun v => 4095 ≤ zigzag v.toInt)

/-- The escape list is vs: ESC_LEN counts its values, and ESC holds them from index 0 on (R43, R57). -/
structure HoldsEscapes (s : State) (vs : List Half) : Prop where
  escLen : s.escLen.toNat = vs.length
  esc : ∀ k < vs.length, tableGet s.mem.esc k = vs[k]?

theorem escapesOf_cons_of_direct {v : Half} (h : zigzag v.toInt < 4095) (res : List Half) :
    escapesOf (v :: res) = escapesOf res :=
  List.filter_cons_of_neg (by simpa using h)

theorem escapesOf_cons_of_escape {v : Half} (h : 4095 ≤ zigzag v.toInt) (res : List Half) :
    escapesOf (v :: res) = v :: escapesOf res :=
  List.filter_cons_of_pos (by simpa using h)

theorem length_escapesOf (res : List Half) :
    (escapesOf res).length = res.countP (fun v => 4095 ≤ zigzag v.toInt) := List.countP_eq_length_filter.symm

theorem toNat_symbolWord_low (v : Half) : ((symbolWord v).setWidth 12).toNat = min (zigzag v.toInt) 4095 := by
  rw [symbolWord, BitVec.setWidth_ofNat_of_le (by decide)]
  exact toNat_ofNat_of_lt (by omega)

/-- The low half of a residual's pattern is the residual (R13). -/
theorem u32_toInt_low (v : Half) : (u32 v.toInt).setWidth 16 = v := (u32_low _).trans BitVec.ofInt_toInt

/-! ## The run of SYM_ENC -/

/-- An appended escape is the list's last one. -/
theorem HoldsEscapes.appendEscape {s : State} {vs : List Half} (h : HoldsEscapes s vs) (hroom : vs.length < 2 ^ 18)
    (v : Half) : HoldsEscapes (appendEscape v s) (vs ++ [v]) where
  escLen := by
    have hlen := h.escLen
    rw [appendEscape_escLen, List.length_append, ← hlen]
    exact BitVec.toNat_add_of_lt (show s.escLen.toNat + 1 < 2 ^ 19 by omega)
  esc k hk := by
    rw [appendEscape_mem, tableGet_tableSet, h.escLen]
    split
    · subst_vars
      exact List.getElem?_concat_length.symm
    · rw [List.length_append, List.length_singleton] at hk
      rw [List.getElem?_append_left (by omega)]
      exact h.esc k (by omega)

/-- SYM_ENC over residuals whose escapes fit completes, with no fault, and appends the escapes in their order. -/
theorem HoldsEscapes.execEach_symEnc {s : State} {vs res : List Half} (h : HoldsEscapes s vs) (hf : s.fault = none)
    (hdepth : s.cfg.escDepth ≤ 2 ^ 18) (hfit : vs.length + (escapesOf res).length ≤ s.cfg.escDepth) :
    ∃ u, execEach .symEnc res s = some (res.map symbolWord, u) ∧ u.fault = none
      ∧ HoldsEscapes u (vs ++ escapesOf res) := by
  induction res generalizing s vs with
  | nil => exact ⟨s, rfl, hf, by rwa [escapesOf, List.filter_nil, List.append_nil]⟩
  | cons v res ih =>
    rcases lt_or_ge (zigzag v.toInt) 4095 with hv | hv
    · rw [escapesOf_cons_of_direct hv] at hfit ⊢
      obtain ⟨u, hrest, hu⟩ := ih (s := { s with result := BitVec.ofNat 32 (zigzag v.toInt) }) ⟨h.escLen, h.esc⟩
        hf hdepth hfit
      refine ⟨u, execEach_cons_eq_some_iff.2 ⟨_, _, exec_symEnc_of_direct hv s, hf, hrest, ?_⟩, hu⟩
      rw [List.map_cons, symbolWord, min_eq_left hv.le]
    · rw [escapesOf_cons_of_escape hv, List.length_cons] at hfit
      have hroom : s.escLen.toNat < s.cfg.escDepth := by rw [h.escLen]; omega
      obtain ⟨u, hrest, hu⟩ := ih (h.appendEscape (by omega) v) hf hdepth
        (by rw [List.length_append, List.length_singleton, appendEscape_cfg]; omega)
      rw [escapesOf_cons_of_escape hv, List.append_cons]
      refine ⟨u, execEach_cons_eq_some_iff.2 ⟨_, _, exec_symEnc_of_escape hv hroom, hf, hrest, ?_⟩, hu⟩
      rw [List.map_cons, symbolWord, min_eq_right hv]
      rfl

/-! ## The run of SYM_DEC -/

/-- SYM_DEC of a direct residual's symbol gives the residual and consumes no escape (R226). -/
theorem exec_symDec_symbolWord_of_direct {v : Half} (hv : zigzag v.toInt < 4095) (s : State) :
    exec (.symDec ((symbolWord v).setWidth 12)) s = .next { s with result := u32 v.toInt } := by
  have hy : ((symbolWord v).setWidth 12).toNat = zigzag v.toInt := (toNat_symbolWord_low v).trans (min_eq_left hv.le)
  rw [exec_symDec_of_direct (hy.trans_lt hv), hy, unzigzag_zigzag]

/-- SYM_DEC of ESC_SYM gives the next escape (R226). -/
theorem HoldsEscapes.exec_symDec_symbolWord {s : State} {vs ws : List Half} {v : Half}
    (h : HoldsEscapes s (vs ++ v :: ws)) (hrd : s.escRd.toNat = vs.length) (hv : 4095 ≤ zigzag v.toInt) :
    exec (.symDec ((symbolWord v).setWidth 12)) s
      = .next { s with result := u32 v.toInt, escRd := s.escRd + 1 } := by
  have hlt : vs.length < (vs ++ v :: ws).length := by simp
  have hesc : readEsc s s.escRd.toNat = v :=
    readEsc_of_get (by rw [hrd, h.esc _ hlt, List.getElem?_append_right le_rfl, Nat.sub_self, List.getElem?_cons_zero])
  rw [exec_symDec_of_escape ((toNat_symbolWord_low v).trans (min_eq_right hv)) (by rw [hrd, h.escLen]; exact hlt), hesc]
  rfl

/-- SYM_DEC over the symbols of residuals whose escapes are the rest of the list gives the residuals back and uses the
list up. -/
theorem HoldsEscapes.execEach_symDec {s : State} {vs res : List Half} (h : HoldsEscapes s (vs ++ escapesOf res))
    (hf : s.fault = none) (hrd : s.escRd.toNat = vs.length) :
    ∃ out t, execEach .symDec (res.map (fun v => (symbolWord v).setWidth 12)) s = some (out, t)
      ∧ out.map (fun x : Word => x.setWidth 16) = res ∧ t.escRd = t.escLen := by
  induction res generalizing s vs with
  | nil =>
    refine ⟨[], s, rfl, rfl, BitVec.eq_of_toNat_eq ?_⟩
    rw [hrd, h.escLen, escapesOf, List.filter_nil, List.append_nil]
  | cons v res ih =>
    rcases lt_or_ge (zigzag v.toInt) 4095 with hv | hv
    · rw [escapesOf_cons_of_direct hv] at h
      obtain ⟨out, t, hrest, hout, hend⟩ := ih (s := { s with result := u32 v.toInt }) ⟨h.escLen, h.esc⟩ hf hrd
      exact ⟨_, t, execEach_cons_eq_some_iff.2 ⟨_, out, exec_symDec_symbolWord_of_direct hv s, hf, hrest, rfl⟩,
        by rw [List.map_cons, u32_toInt_low, hout], hend⟩
    · rw [escapesOf_cons_of_escape hv] at h
      have hnext : (s.escRd + 1).toNat = (vs ++ [v]).length := by
        have hlen := h.escLen
        rw [List.length_append, List.length_cons] at hlen
        rw [List.length_append, ← hrd]
        exact BitVec.toNat_add_of_lt (show s.escRd.toNat + 1 < 2 ^ 19 by omega)
      have hlist : HoldsEscapes { s with result := u32 v.toInt, escRd := s.escRd + 1 } (vs ++ v :: escapesOf res) :=
        ⟨h.escLen, h.esc⟩
      rw [List.append_cons] at hlist
      obtain ⟨out, t, hrest, hout, hend⟩ := ih hlist hf hnext
      exact ⟨_, t, execEach_cons_eq_some_iff.2 ⟨_, out, h.exec_symDec_symbolWord hrd hv, hf, hrest, rfl⟩,
        by rw [List.map_cons, u32_toInt_low, hout], hend⟩

end Sys2Proof.Machine

open Sys2Proof Sys2Proof.Machine

/-- Settles O42: SYM_INIT leaves the empty escape list, SYM_ENC fills it with the escapes, and SYM_DEC from ESC_RD = 0
consumes it. -/
theorem symbolizerRoundTrip : Obligations.SymbolizerRoundTrip := by
  intro s res hlegal hf hfit
  have hempty : HoldsEscapes { s with escLen := 0, escRd := 0 } [] := ⟨rfl, nofun⟩
  obtain ⟨s2, henc, hf2, hesc⟩ := hempty.execEach_symEnc (res := res) hf (escDepth_of_legal hlegal).2
    (by rw [List.length_nil, Nat.zero_add, length_escapesOf]; exact hfit)
  rw [List.nil_append] at hesc
  have hrewound : HoldsEscapes { s2 with escRd := 0 } ([] ++ escapesOf res) := ⟨hesc.escLen, hesc.esc⟩
  obtain ⟨out, s3, hdec, hout, hend⟩ := hrewound.execEach_symDec hf2 rfl
  exact ⟨_, _, s2, out, s3, rfl, henc, by rw [List.map_map]; exact hdec, hout, hend⟩
end

section
/-! MODEL_BUILD by its checks, and the tables it builds: CUM has the sum of the frequencies before each symbol, and LUT
gives each slot of a symbol's range that symbol (43_model.md R251, R252). -/
namespace Sys2Proof.Machine

/-! ## MODEL_BUILD by its checks -/

/-- No entry is 0 where the search for the lowest zero finds none (R251). -/
theorem lowestZero_eq_none_iff {s : State} : lowestZero s = none ↔ ∀ i < 4096, readFreq s i ≠ 0 := by
  simp only [lowestZero, List.find?_eq_none, List.mem_range, beq_iff_eq, ne_eq, BitVec.toNat_eq, BitVec.ofNat_eq_ofNat,
    BitVec.toNat_ofNat, Nat.zero_mod]

theorem lowestZero_eq_some {s : State} {z : Nat} (hz : z < 4096) (hzero : readFreq s z = 0)
    (hlow : ∀ i < z, readFreq s i ≠ 0) : lowestZero s = some z := by
  refine List.find?_range_eq_some.2 ⟨by rw [hzero]; rfl, List.mem_range.2 hz, fun i hi => ?_⟩
  rw [Bool.not_eq_true', beq_eq_false_iff_ne]
  exact fun h => hlow i hi (BitVec.eq_of_toNat_eq h)

/-- MODEL_BUILD's total leaves bit 31 of FAULT_INFO, and the three below it, free (R251). -/
theorem sum_allFreqs_lt (s : State) : (allFreqs s).sum < 2 ^ 28 := by
  have hentry : ∀ f ∈ allFreqs s, f ≤ 65535 :=
    List.forall_mem_map.2 fun i _ => Nat.le_of_lt_succ (readFreq s i).isLt
  have hle := List.sum_le_card_nsmul _ _ hentry
  rw [length_allFreqs, smul_eq_mul] at hle
  omega

theorem exec_modelBuild_of_zero {s : State} {z : Nat} (hz : lowestZero s = some z) :
    exec .modelBuild s = .next (raise (encode .modelBuild) .modelInvalid (BitVec.ofNat 32 z) s) := by
  simp only [exec, execModelBuild, hz]

theorem exec_modelBuild_of_wrongTotal {s : State} (hz : lowestZero s = none) (hs : (allFreqs s).sum ≠ 4096) :
    exec .modelBuild s
      = .next (raise (encode .modelBuild) .modelInvalid (0x80000000#32 ||| BitVec.ofNat 32 (allFreqs s).sum) s) := by
  simp only [exec, execModelBuild, hz, if_pos hs]

theorem exec_modelBuild_of_accepted {s : State} (hz : lowestZero s = none) (hs : (allFreqs s).sum = 4096) :
    exec .modelBuild s = .next (buildTables s) := by
  simp only [exec, execModelBuild, hz, if_neg (not_not.2 hs)]

/-- A number below 2^31 beside bit 31, as MODEL_BUILD reports a wrong total (R251). -/
theorem bit31_or_ofNat {n : Nat} (h : n < 2 ^ 31) :
    0x80000000#32 ||| BitVec.ofNat 32 n = BitVec.ofNat 32 (2 ^ 31 + n) := by
  have hor := Nat.two_pow_add_eq_or_of_lt h 1
  rw [Nat.mul_one] at hor
  rw [hor, BitVec.ofNat_or]

/-! ## The built tables -/

/-- In canonical form an entry of the list is the entry read at its index. -/
theorem tableGet_of_mem {w : Nat} {t : Table w} (ht : tableSorted t) {i : Nat} {v : BitVec w} (h : (i, v) ∈ t) :
    tableGet t i = some v := by
  induction t with
  | nil => cases h
  | cons e t ih =>
    obtain ⟨hlt, ht⟩ := List.pairwise_cons.1 ht
    rcases List.mem_cons.1 h with rfl | h
    · exact if_pos rfl
    · exact (if_neg (hlt _ h).ne).trans (ih ht h)

/-- CUM has the sum of the frequencies before each symbol (R251). -/
theorem mem_buildCum_take {fs : List Nat} {y : Nat} (hy : y < fs.length) (s acc : Nat) :
    (s + y, BitVec.ofNat 12 (acc + (fs.take y).sum)) ∈ buildCum fs s acc := by
  induction fs generalizing y s acc with
  | nil => cases hy
  | cons f fs ih =>
    cases y with
    | zero => exact List.mem_cons_self
    | succ y =>
      have hrest := ih (Nat.lt_of_succ_lt_succ hy) (s + 1) (acc + f)
      rw [Nat.add_assoc, Nat.add_assoc, Nat.add_comm 1] at hrest
      rw [List.take_succ_cons, List.sum_cons]
      exact List.mem_cons_of_mem _ hrest

/-- LUT has each slot of a symbol's range with that symbol (R251). -/
theorem mem_buildLut_of_slot {fs : List Nat} {y slot : Nat} (hy : y < fs.length) (s acc : Nat)
    (hlo : acc + (fs.take y).sum ≤ slot) (hhi : slot < acc + (fs.take (y + 1)).sum) :
    (slot, BitVec.ofNat 12 (s + y)) ∈ buildLut fs s acc := by
  induction fs generalizing y s acc with
  | nil => cases hy
  | cons f fs ih =>
    rw [List.take_succ_cons, List.sum_cons] at hhi
    cases y with
    | zero =>
      rw [List.take_zero, List.sum_nil, Nat.add_zero] at hlo hhi
      refine List.mem_append_left _ (List.mem_map.2 ⟨slot - acc, List.mem_range.2 (by omega), ?_⟩)
      rw [Nat.add_sub_cancel' hlo]
      rfl
    | succ y =>
      rw [List.take_succ_cons, List.sum_cons] at hlo
      have hrest := ih (Nat.lt_of_succ_lt_succ hy) (s + 1) (acc + f) (by omega) (by omega)
      rw [Nat.add_assoc, Nat.add_comm 1] at hrest
      exact List.mem_append_right _ hrest

end Sys2Proof.Machine

open Sys2Proof Sys2Proof.Machine

/-- Settles O43: over ones both checks pass and the tables are the uniform model's; a table that passes both is of
ones. -/
theorem modelBuildAcceptsOnlyAllOnes : Obligations.ModelBuildAcceptsOnlyAllOnes := by
  refine fun s => ⟨fun hones => ?_, fun ⟨i, hi, hne⟩ => ?_⟩
  · have hz : lowestZero s = none := lowestZero_eq_none_iff.2 fun i hi => by rw [hones i hi]; decide
    have hs : (allFreqs s).sum = 4096 := by
      rw [allFreqs_eq_replicate fun i hi => congrArg BitVec.toNat (hones i hi), List.sum_replicate, smul_eq_mul]
    exact ⟨_, exec_modelBuild_of_accepted hz hs, fun i hi => (uniformModel_buildTables hz hs i hi).2,
      by rw [buildTables]⟩
  · obtain ⟨t, ht⟩ := exec_completes .modelBuild s
    rcases execModelBuild_cases (s := s) ht with ⟨info, rfl⟩ | ⟨hz, hs, -⟩
    · exact ⟨info, ht⟩
    · exact absurd (BitVec.eq_of_toNat_eq (readFreq_eq_one_of_accepted hz hs i hi)) hne

/-- Settles O44: the search for a zero comes first, and without one the total is compared. -/
theorem modelBuildReportsTheFirstProblem : Obligations.ModelBuildReportsTheFirstProblem := by
  refine fun s => ⟨fun z hz hzero hlow => exec_modelBuild_of_zero (lowestZero_eq_some hz hzero hlow),
    fun hnz hs => ⟨sum_allFreqs_lt s, ?_⟩⟩
  have hlt : (allFreqs s).sum < 2 ^ 31 := (sum_allFreqs_lt s).trans (by decide)
  rw [exec_modelBuild_of_wrongTotal (lowestZero_eq_none_iff.2 hnz) hs, bit31_or_ofNat hlt]
  rfl

/-- Settles O45: both tables list the entry, and their canonical form reads back what is listed. -/
theorem builtTablesTileTheSlots : Obligations.BuiltTablesTileTheSlots := by
  refine fun fs _ _ y hy => ⟨tableGet_of_mem (tableSorted_buildCum fs 0 0) ?_, fun slot hlo hhi =>
    tableGet_of_mem (tableSorted_buildLut fs 0 0) ?_⟩
  · have hcum := mem_buildCum_take hy 0 0
    rwa [Nat.zero_add, Nat.zero_add] at hcum
  · have hlut := mem_buildLut_of_slot hy 0 0 ((Nat.zero_add _).trans_le hlo) (hhi.trans_eq (Nat.zero_add _).symm)
    rwa [Nat.zero_add] at hlut
end

section
/-! What MODEL_BUILD and the coder's commands leave unchanged (43_model.md R251; 44_rans.md R284 to R291). -/
namespace Sys2Proof.Machine

/-- What MODEL_BUILD and the five coder commands leave unchanged. -/
structure ModelAndCoderFrame (s t : State) : Prop where
  predictor : SamePredictor s t
  config : SameFrameConfig s t
  escapes : SameEscapes s t
  port : SamePort s t
  /-- Of the tables only CUM, LUT and PAY change. -/
  mem : t.mem = { s.mem with cum := t.mem.cum, lut := t.mem.lut, pay := t.mem.pay }
  fault : t.fault = s.fault ∨ t = { s with fault := t.fault }

namespace ModelAndCoderFrame

theorem raise (w : Word) (c : FaultCode) (info : Word) (s : State) : ModelAndCoderFrame s (raise w c info s) where
  predictor := ⟨rfl, rfl, rfl, rfl, rfl, rfl, rfl, rfl, rfl⟩
  config := ⟨rfl, rfl, rfl⟩
  escapes := ⟨rfl, rfl⟩
  port := samePort_raise w c info s
  mem := rfl
  fault := .inr rfl

theorem withTables (s : State) (b : Bool) (cum lut : Table 12) :
    ModelAndCoderFrame s { s with modelValid := b, mem := { s.mem with cum := cum, lut := lut } } where
  predictor := ⟨rfl, rfl, rfl, rfl, rfl, rfl, rfl, rfl, rfl⟩
  config := ⟨rfl, rfl, rfl⟩
  escapes := ⟨rfl, rfl⟩
  port := ⟨rfl, rfl, rfl, rfl⟩
  mem := rfl
  fault := .inl rfl

theorem buildTables (s : State) : ModelAndCoderFrame s (buildTables s) := withTables s true _ _

end ModelAndCoderFrame

/-- What the five coder commands leave unchanged: also MODEL_VALID, CUM and LUT, which are MODEL_BUILD's (R251). -/
structure CoderFrame (s t : State) : Prop extends ModelAndCoderFrame s t where
  modelValid : t.modelValid = s.modelValid
  cum : t.mem.cum = s.mem.cum
  lut : t.mem.lut = s.mem.lut

namespace CoderFrame

theorem raise (w : Word) (c : FaultCode) (info : Word) (s : State) : CoderFrame s (raise w c info s) where
  toModelAndCoderFrame := .raise w c info s
  modelValid := rfl
  cum := rfl
  lut := rfl

/-- Every effect of a coder command is an update of the coder's registers, RESULT and PAY. -/
theorem withCoder (s : State) (r x : Word) (p : BitVec 25) (n : Word) (m : RMode) (pay : Table 8) :
    CoderFrame s { s with
      result := r, ransX := x, pos := p, ransCnt := n, rmode := m, mem := { s.mem with pay := pay } } where
  predictor := ⟨rfl, rfl, rfl, rfl, rfl, rfl, rfl, rfl, rfl⟩
  config := ⟨rfl, rfl, rfl⟩
  escapes := ⟨rfl, rfl⟩
  port := ⟨rfl, rfl, rfl, rfl⟩
  mem := rfl
  fault := .inl rfl
  modelValid := rfl
  cum := rfl
  lut := rfl

end CoderFrame

theorem modelAndCoderFrame_of_execModelBuild {s t : State} (h : execModelBuild s = .next t) :
    ModelAndCoderFrame s t ∧ (SameCoder s t ∧ t.mem.pay = s.mem.pay) ∧ t.result = s.result := by
  rcases execModelBuild_cases h with ⟨info, rfl⟩ | ⟨-, -, rfl⟩
  · exact ⟨.raise _ _ _ s, ⟨⟨rfl, rfl, rfl, rfl⟩, rfl⟩, rfl⟩
  · exact ⟨.buildTables s, ⟨⟨buildTables_ransX s, buildTables_pos s, buildTables_ransCnt s, buildTables_rmode s⟩,
      by rw [buildTables_mem]⟩, buildTables_result s⟩

theorem coderFrame_of_execRansEnc {y : Sym} {s t : State} (h : execRansEnc y s = .next t) :
    CoderFrame s t ∧ t.result = s.result := by
  rcases execRansEnc_cases h with ⟨c, info, rfl⟩ | ⟨-, -, rfl⟩
  · exact ⟨.raise _ _ _ s, rfl⟩
  · rcases encodeSymbol_cases y (readFreq s y.toNat).toNat (readCum s y.toNat).toNat s with heq | ⟨-, heq⟩
    · rw [heq]
      exact ⟨.raise _ _ _ s, rfl⟩
    · rw [heq]
      exact ⟨.withCoder s _ _ _ _ _ _, rfl⟩

theorem coderFrame_of_execRansEncFlush {s t : State} (h : execRansEncFlush s = .next t) :
    CoderFrame s t ∧ t.result = s.result := by
  rcases execRansEncFlush_cases h with ⟨c, info, rfl⟩ | ⟨-, -, rfl⟩
  · exact ⟨.raise _ _ _ s, rfl⟩
  · exact ⟨.withCoder s _ _ _ _ _ _, rfl⟩

theorem coderFrame_of_execRansDecInit {s t : State} (h : execRansDecInit s = .next t) :
    CoderFrame s t ∧ t.result = s.result := by
  rcases execRansDecInit_cases h with ⟨c, info, rfl⟩ | ⟨-, rfl⟩
  · exact ⟨.raise _ _ _ s, rfl⟩
  · exact ⟨.withCoder s _ _ _ _ _ _, rfl⟩

theorem coderFrame_of_execRansDec {s t : State} (h : execRansDec s = .next t) : CoderFrame s t := by
  rcases execRansDec_cases h with ⟨c, info, rfl⟩ | ⟨x, p, -, -, -, rfl⟩
  · exact .raise _ _ _ s
  · exact .withCoder s _ _ _ _ _ _

end Sys2Proof.Machine

open Sys2Proof Sys2Proof.Machine

/-- Settles O57: each command is in the frame of all six, and keeps what its own rule does not name. -/
theorem modelAndCoderCommandsFrame : Obligations.ModelAndCoderCommandsFrame := by
  intro i s t y h hi
  obtain ⟨hframe, hbuild, hcoder, hresult⟩ : ModelAndCoderFrame s t
      ∧ (i = .modelBuild → SameCoder s t ∧ t.mem.pay = s.mem.pay) ∧ (i ≠ .modelBuild → CoderFrame s t)
      ∧ (i ≠ .ransDec → t.result = s.result) := by
    rcases hi with rfl | rfl | rfl | rfl | rfl | rfl
    · obtain ⟨hframe, hbuild, hresult⟩ := modelAndCoderFrame_of_execModelBuild (s := s) h
      exact ⟨hframe, fun _ => hbuild, nofun, fun _ => hresult⟩
    · cases h
      have hframe := CoderFrame.withCoder s s.result (BitVec.ofNat 32 s.cfg.low) 0 0 .enc s.mem.pay
      exact ⟨hframe.toModelAndCoderFrame, nofun, fun _ => hframe, fun _ => rfl⟩
    · obtain ⟨hframe, hresult⟩ := coderFrame_of_execRansEnc h
      exact ⟨hframe.toModelAndCoderFrame, nofun, fun _ => hframe, fun _ => hresult⟩
    · obtain ⟨hframe, hresult⟩ := coderFrame_of_execRansEncFlush h
      exact ⟨hframe.toModelAndCoderFrame, nofun, fun _ => hframe, fun _ => hresult⟩
    · obtain ⟨hframe, hresult⟩ := coderFrame_of_execRansDecInit h
      exact ⟨hframe.toModelAndCoderFrame, nofun, fun _ => hframe, fun _ => hresult⟩
    · have hframe := coderFrame_of_execRansDec h
      exact ⟨hframe.toModelAndCoderFrame, nofun, fun _ => hframe, fun hne => absurd rfl hne⟩
  have hmem := hframe.mem
  exact ⟨hframe.predictor, hframe.config, hframe.escapes, hframe.port, by rw [hmem], by rw [hmem], by rw [hmem],
    by rw [hmem], hbuild, fun hne => ⟨(hcoder hne).modelValid, (hcoder hne).cum, (hcoder hne).lut⟩, hresult,
    hframe.fault⟩
end

section
/-! The host reference builder: its targets are at least 1, so the fix-up only lowers entries, never below 1, until the
sum is the number of symbols (43_model.md R262 to R266). -/
namespace Sys2Proof.Machine

theorem one_le_targetFreq (syms : List Sym) (s : Nat) : 1 ≤ targetFreq syms s := le_max_left _ _

/-- A step of the fix-up over too large a sum lowers one of the largest entries by 1 (R265). -/
theorem fixUpStep_of_sum_gt {f : List Nat} (hs : 4096 < f.sum) :
    ∃ l m r, f = l ++ m :: r ∧ (∀ x ∈ f, x ≤ m) ∧ fixUpStep f = l ++ (m - 1) :: r := by
  have hne : f ≠ [] := by rintro rfl; cases hs
  have hmax : f.foldl max 0 = f.max hne := (List.foldl_max_eq_max hne).trans (Nat.zero_max _)
  have hi : f.findIdx (· == f.max hne) < f.length :=
    List.findIdx_lt_length.2 ⟨_, List.max_mem hne, beq_self_eq_true _⟩
  have hget : f[f.findIdx (· == f.max hne)] = f.max hne := eq_of_beq (List.findIdx_getElem (w := hi))
  have hstep : fixUpStep f = f.modify (f.findIdx (· == f.max hne)) (· - 1) := by rw [fixUpStep, if_pos hs, hmax]
  obtain ⟨l, m, r, hf, hl, hmod⟩ := List.exists_of_modify (· - 1) hi
  obtain rfl : m = f.max hne := (List.getElem_of_append hf hl).symm.trans hget
  exact ⟨l, _, r, hf, fun x hx => List.le_max_of_mem hx, hstep.trans hmod⟩

/-- The fix-up over 4096 entries of at least 1 ends with ones, given as many steps as the sum is above 4096 (R265). -/
theorem fixUp_eq_replicate {n : Nat} {f : List Nat} (hlen : f.length = 4096) (h1 : ∀ x ∈ f, 1 ≤ x)
    (hs : f.sum = 4096 + n) : fixUp n f = List.replicate 4096 1 := by
  induction n generalizing f with
  | zero => exact List.eq_replicate_iff.2 ⟨hlen, eq_one_of_sum_eq_length h1 (hs.trans hlen.symm)⟩
  | succ n ih =>
    obtain ⟨l, m, r, hf, hmax, hstep⟩ := fixUpStep_of_sum_gt (f := f) (by omega)
    have hm : 2 ≤ m := by
      have hle := List.sum_le_card_nsmul f m hmax
      rw [hlen, smul_eq_mul] at hle
      omega
    rw [fixUp, if_neg (show ¬ f.sum = 4096 by omega), hstep]
    subst hf
    rw [List.length_append, List.length_cons] at hlen
    rw [List.sum_append, List.sum_cons] at hs
    rw [List.forall_mem_append, List.forall_mem_cons] at h1
    obtain ⟨hl, -, hr⟩ := h1
    refine ih ?_ ?_ ?_
    · rw [List.length_append, List.length_cons, hlen]
    · rw [List.forall_mem_append, List.forall_mem_cons]
      exact ⟨hl, by omega, hr⟩
    · rw [List.sum_append, List.sum_cons]
      omega

end Sys2Proof.Machine

open Sys2Proof Sys2Proof.Machine

/-- Settles O59: the targets are at least 1, so the sum is at least 4096 and the fix-up ends with ones. -/
theorem referenceBuilderEndsAllOnes : Obligations.ReferenceBuilderEndsAllOnes := by
  intro syms
  have hlen : ((List.range 4096).map (targetFreq syms)).length = 4096 := by rw [List.length_map, List.length_range]
  have h1 : ∀ x ∈ (List.range 4096).map (targetFreq syms), 1 ≤ x :=
    List.forall_mem_map.2 fun i _ => one_le_targetFreq syms i
  have hsum := List.length_le_sum_of_one_le _ h1
  rw [hlen] at hsum
  refine fixUp_eq_replicate hlen h1 ?_
  rw [sumDistance, Config.scale]
  omega
end

section
/-! EncRenorm and DecRenorm move whole bytes between the state and the payload, and undo each other (44_rans.md R282,
R283, R286, R288, R289, R292). -/
namespace Sys2Proof.Machine

/-! ## The bytes EncRenorm emits -/

/-- The low k bytes of x, lowest first: the order in which EncRenorm and the flush emit them (R282, R287). -/
def lowBytes (x k : Nat) : List Byte := (List.range k).map fun j => BitVec.ofNat 8 (x / 2 ^ (8 * j))

@[simp] theorem length_lowBytes (x k : Nat) : (lowBytes x k).length = k := by
  rw [lowBytes, List.length_map, List.length_range]

theorem getElem_lowBytes {x k j : Nat} (h : j < (lowBytes x k).length) :
    (lowBytes x k)[j] = BitVec.ofNat 8 (x / 2 ^ (8 * j)) := by simp [lowBytes]

theorem getElem?_lowBytes {x k j : Nat} (h : j < k) : (lowBytes x k)[j]? = some (BitVec.ofNat 8 (x / 2 ^ (8 * j))) := by
  simp [lowBytes, h]

/-- Shifting out k + 1 bytes is shifting out one, then k. -/
theorem div_bytes_succ (x k : Nat) : x / 2 ^ (8 * (k + 1)) = x / 2 ^ 8 / 2 ^ (8 * k) := by
  rw [Nat.div_div_eq_div_mul, ← Nat.pow_add, Nat.mul_succ, Nat.add_comm]

theorem lowBytes_succ (x k : Nat) : lowBytes x (k + 1) = BitVec.ofNat 8 x :: lowBytes (x / 2 ^ 8) k := by
  simp only [lowBytes, List.range_succ_eq_map, List.map_cons, List.map_map, Nat.mul_zero, Nat.pow_zero, Nat.div_one]
  exact congrArg _ (List.map_congr_left fun j _ => congrArg _ (div_bytes_succ x j))

/-- EncRenorm shifts out some k bytes: each while the state is at or above the bound, and no more when the state is
below it or the shifts are used up (R282). -/
theorem encRenorm_cases (bound n x : Nat) : ∃ k ≤ n, encRenorm bound n x = (x / 2 ^ (8 * k), lowBytes x k)
    ∧ (∀ j < k, bound ≤ x / 2 ^ (8 * j)) ∧ (k = n ∨ x / 2 ^ (8 * k) < bound) := by
  have hzero : x / 2 ^ (8 * 0) = x := Nat.div_one x
  induction n generalizing x with
  | zero => exact ⟨0, le_rfl, by rw [hzero]; rfl, nofun, .inl rfl⟩
  | succ n ih =>
    rw [encRenorm]
    split
    · rename_i hx
      obtain ⟨k, hk, heq, hge, hend⟩ := ih (x / 2 ^ 8) (Nat.div_one _)
      refine ⟨k + 1, by omega, by rw [heq, lowBytes_succ, div_bytes_succ], fun j hj => ?_, ?_⟩
      · cases j with
        | zero => rwa [hzero]
        | succ j => rw [div_bytes_succ]; exact hge j (by omega)
      · rw [div_bytes_succ]
        exact hend.imp_left (by omega)
    · exact ⟨0, Nat.zero_le _, by rw [hzero]; rfl, nofun, .inr (by omega)⟩

/-! ## The bytes DecRenorm pops -/

/-- The state after k pops from stack pointer p: each byte under the pointer becomes the low byte (R289). -/
def popFold (pay : Nat → Byte) (p : Nat) (x : Int) (k : Nat) : Int :=
  (List.range k).foldl (fun v j => v * 256 + ((pay (p - 1 - j)).toNat : Int)) x

theorem popFold_succ (pay : Nat → Byte) (p : Nat) (x : Int) (k : Nat) :
    popFold pay p x (k + 1) = popFold pay p x k * 256 + (pay (p - 1 - k)).toNat := by
  simp [popFold, List.range_succ]

/-- The first of k + 1 pops, and the others from the pointer below. -/
theorem popFold_pop (pay : Nat → Byte) (p : Nat) (x : Int) (k : Nat) :
    popFold pay (p + 1) x (k + 1) = popFold pay p (x * 2 ^ 8 + (pay p).toNat) k := by
  induction k with
  | zero => rfl
  | succ k ih => rw [popFold_succ, ih, popFold_succ, show p + 1 - 1 - (k + 1) = p - 1 - k by omega]

/-- DecRenorm pops the least number of bytes that bring the state to LOW (R289). -/
theorem decRenorm_of_least {low p k : Nat} {pay : Nat → Byte} {x : Int} (hk : k ≤ p) (hlow : low ≤ popFold pay p x k)
    (hleast : ∀ j < k, popFold pay p x j < low) : decRenorm low pay p x = some (popFold pay p x k, p - k) := by
  induction k generalizing p x with
  | zero => cases p <;> exact if_neg (Int.not_lt.2 hlow)
  | succ k ih =>
    obtain ⟨p, rfl⟩ : ∃ q, p = q + 1 := ⟨p - 1, by omega⟩
    have hx : x < low := hleast 0 (Nat.succ_pos k)
    rw [popFold_pop] at hlow ⊢
    rw [decRenorm, if_pos hx, ih (by omega) hlow fun j hj => ?_, Nat.succ_sub_succ]
    rw [← popFold_pop]
    exact hleast (j + 1) (by omega)

/-- DecRenorm underflows when all bytes under the stack pointer do not bring the state to LOW (R289). -/
theorem decRenorm_of_short {low p : Nat} {pay : Nat → Byte} {x : Int} (h : ∀ j ≤ p, popFold pay p x j < low) :
    decRenorm low pay p x = none := by
  have hx : x < low := h 0 (Nat.zero_le p)
  induction p generalizing x with
  | zero => exact if_pos hx
  | succ p ih =>
    have hpop (j : Nat) (hj : j ≤ p) : popFold pay p (x * 2 ^ 8 + (pay p).toNat) j < low :=
      popFold_pop pay p x j ▸ h (j + 1) (by omega)
    rw [decRenorm, if_pos hx]
    exact ih hpop (hpop 0 (Nat.zero_le p))

/-! ## Decoding undoes encoding -/

/-- Pops over the low bytes of x bring back, byte by byte, what was shifted out. -/
theorem popFold_of_lowBytes {pay : Nat → Byte} {p x k : Nat}
    (h : ∀ j < k, pay (p + j) = BitVec.ofNat 8 (x / 2 ^ (8 * j))) {i : Nat} (hi : i ≤ k) :
    popFold pay (p + k) (x / 2 ^ (8 * k) : Nat) i = (x / 2 ^ (8 * (k - i)) : Nat) := by
  induction i with
  | zero => rfl
  | succ i ih =>
    have hbyte : (pay (p + k - 1 - i)).toNat = x / 2 ^ (8 * (k - (i + 1))) % 2 ^ 8 := by
      rw [show p + k - 1 - i = p + (k - (i + 1)) by omega, h _ (by omega), BitVec.toNat_ofNat]
    have hshift : x / 2 ^ (8 * (k - i)) = x / 2 ^ (8 * (k - (i + 1))) / 2 ^ 8 := by
      rw [Nat.div_div_eq_div_mul, ← Nat.pow_add, show 8 * (k - i) = 8 * (k - (i + 1)) + 8 by omega]
    rw [popFold_succ, ih (by omega), hbyte, hshift]
    omega

/-- DecRenorm over the bytes EncRenorm emitted pops them all and no more: only the last one brings the state to LOW
(R292). -/
theorem decRenorm_encRenorm {low bound n x p : Nat} {pay : Nat → Byte} (hlo : low ≤ x) (hhi : x < low * 2 ^ 8)
    (hpay : ∀ j, ∀ b, (encRenorm bound n x).2[j]? = some b → pay (p + j) = b) :
    decRenorm low pay (p + (encRenorm bound n x).2.length) ((encRenorm bound n x).1 : Int) = some ((x : Int), p) := by
  obtain ⟨k, -, heq, -, -⟩ := encRenorm_cases bound n x
  rw [heq] at hpay ⊢
  rw [length_lowBytes]
  have hbytes (j : Nat) (hj : j < k) : pay (p + j) = BitVec.ofNat 8 (x / 2 ^ (8 * j)) := hpay j _ (getElem?_lowBytes hj)
  have hall : popFold pay (p + k) (x / 2 ^ (8 * k) : Nat) k = x := by
    rw [popFold_of_lowBytes hbytes le_rfl, Nat.sub_self, Nat.mul_zero, Nat.pow_zero, Nat.div_one]
  have hpops := decRenorm_of_least (low := low) (k := k) (Nat.le_add_left k p) (by rw [hall]; exact_mod_cast hlo)
    fun j hj => ?_
  · rw [hpops, hall, Nat.add_sub_cancel]
  · rw [popFold_of_lowBytes hbytes hj.le]
    have hshift : x / 2 ^ (8 * (k - j)) ≤ x / 2 ^ 8 :=
      Nat.div_le_div_left (Nat.pow_le_pow_right Nat.two_pos (by omega)) (Nat.two_pow_pos 8)
    omega

/-- EncStep puts the symbol's range into the low 12 bits and the quotient above them (R283). -/
theorem encStep_mod_div {x f cf : Nat} (hf : 1 ≤ f) (hcf : cf + f ≤ 4096) :
    encStep x f cf % 4096 = x % f + cf ∧ encStep x f cf / 4096 = x / f := by
  have hmod : x % f < f := Nat.mod_lt x hf
  unfold encStep Config.scale
  omega

/-- DecStep on the symbol's slot undoes EncStep (R292). -/
theorem decStep_encStep {x f cf : Nat} (hf : 1 ≤ f) (hcf : cf + f ≤ 4096) :
    decStep (encStep x f cf) f cf (encStep x f cf % 4096) = x := by
  obtain ⟨hmod, hdiv⟩ := encStep_mod_div (x := x) hf hcf
  have hx : f * (x / f) + x % f = x := Nat.div_add_mod x f
  rw [decStep, hmod, show (2 : Nat) ^ Config.prec = 4096 from rfl, hdiv]
  omega

/-! ## The encoder's bounds -/

theorem twelve_le_ransB {c : Params} (h : c.legal = true) : 12 ≤ c.ransB := by
  rcases ransB_of_legal h with hb | hb <;> omega

/-- XMAX(f) in the forms of the statements: by RANS_B - 4, and as one byte above f * 2^(RANS_B - PREC) (R10, R286). -/
theorem xmax_eq {c : Params} (h : c.legal = true) (f : Nat) :
    c.xmax f = f * 2 ^ (c.ransB - 4) ∧ c.xmax f = f * 2 ^ (c.ransB - 12) * 2 ^ 8 := by
  have hb := twelve_le_ransB h
  constructor
  · rw [Params.xmax, show c.ransB + 8 - Config.prec = c.ransB - 4 by unfold Config.prec; omega]
  · rw [Params.xmax, Nat.mul_assoc, ← Nat.pow_add,
      show c.ransB + 8 - Config.prec = c.ransB - 12 + 8 by unfold Config.prec; omega]

/-- LOW is the alphabet's size times 2^(RANS_B - PREC). -/
theorem low_eq {c : Params} (h : c.legal = true) : c.low = 2 ^ (c.ransB - 12) * 2 ^ 12 := by
  rw [← Nat.pow_add, Nat.sub_add_cancel (twelve_le_ransB h)]

theorem one_le_xmax (c : Params) {f : Nat} (hf : 1 ≤ f) : 1 ≤ c.xmax f := Nat.mul_pos hf (Nat.two_pow_pos _)

/-- From the state interval EncRenorm shifts out at most two bytes (R286). -/
theorem length_encRenorm_le_two {c : Params} {x f : Nat} (hc : c.legal = true) (hhi : x < 2 ^ (c.ransB + 8))
    (hf : 1 ≤ f) (n : Nat) : (encRenorm (c.xmax f) n x).2.length ≤ 2 := by
  obtain ⟨k, -, heq, hge, -⟩ := encRenorm_cases (c.xmax f) n x
  rw [heq, length_lowBytes]
  by_contra hk
  have hbound := hge 2 (by omega)
  have hone : 2 ^ (c.ransB - 4) ≤ c.xmax f := by
    rw [(xmax_eq hc f).1]
    exact Nat.le_mul_of_pos_left _ hf
  rcases ransB_of_legal hc with hb | hb <;> rw [hb] at hhi hone <;> omega

end Sys2Proof.Machine

open Sys2Proof Sys2Proof.Machine

/-- Settles O51: EncRenorm ends below its bound and not more than a byte below it, which EncStep takes into the
interval. -/
theorem encoderStaysInItsInterval : Obligations.EncoderStaysInItsInterval := by
  intro c x f cf hc hlo hhi hf hcf
  have hwidth : c.ransB + 8 ≤ 32 := by rcases ransB_of_legal hc with hb | hb <;> omega
  have hhi' : x < c.low * 2 ^ 8 := by rwa [Params.low, ← Nat.pow_add]
  obtain ⟨hstep, hstep'⟩ := encStep_encRenorm_mem_interval hc hlo hhi' hf hcf
  rw [Params.low, ← Nat.pow_add] at hstep'
  have hpow : 2 ^ (c.ransB + 8) ≤ 2 ^ 32 := Nat.pow_le_pow_right Nat.two_pos hwidth
  have hlt : x < c.xmax f * 2 ^ (8 * maxShifts) :=
    (hhi.trans_le hpow).trans_le (Nat.le_mul_of_pos_left _ (one_le_xmax c hf))
  have hle : f * 2 ^ (c.ransB - 12) ≤ x := by
    calc f * 2 ^ (c.ransB - 12) ≤ 2 ^ 12 * 2 ^ (c.ransB - 12) := Nat.mul_le_mul_right _ (by omega)
      _ = c.low := by rw [low_eq hc, Nat.mul_comm]
      _ ≤ x := hlo
  refine ⟨le_encRenorm (xmax_eq hc f).2.ge hle, encRenorm_lt hlt, length_encRenorm_le_two hc hhi hf _,
    hstep, hstep', hwidth, ?_⟩
  calc _ ≤ encStep (encRenorm (c.xmax f) maxShifts x).1 f cf := by unfold encStep Config.scale; omega
    _ < 2 ^ (c.ransB + 8) := hstep'
    _ ≤ 2 ^ 32 := hpow

/-- Settles O52: EncStep leaves the symbol's slot in the low bits, and the pops end where the emission began. -/
theorem decodeStepInvertsEncodeStep : Obligations.DecodeStepInvertsEncodeStep := by
  intro c x f cf p pay _ hlo hhi hf hcf
  dsimp only
  intro hpay
  have hhi' : x < c.low * 2 ^ 8 := by rwa [Params.low, ← Nat.pow_add]
  obtain ⟨hmod, -⟩ := encStep_mod_div (x := (encRenorm (c.xmax f) maxShifts x).1) hf hcf
  have hlt : (encRenorm (c.xmax f) maxShifts x).1 % f < f := Nat.mod_lt _ hf
  exact ⟨by omega, by omega, decStep_encStep hf hcf, decRenorm_encRenorm hlo hhi' hpay⟩
end

section
/-! The coder's commands case by case: the renormalisation bytes and the flush in PAY, the state read back from its
tail, and the mode faults (44_rans.md R282 to R291). -/
namespace Sys2Proof.Machine

/-! ## Bytes in the payload -/

/-- The low bytes of x stored from index i on: byte j lies at i + j (R282, R287). -/
theorem tableGet_storeBytes_lowBytes {x k j : Nat} (hj : j < k) (i : Nat) (t : Table 8) :
    tableGet (storeBytes (lowBytes x k) i t) (i + j) = some (BitVec.ofNat 8 (x / 2 ^ (8 * j))) := by
  rw [tableGet_storeBytes _ i t (by rwa [length_lowBytes]), getElem_lowBytes]

/-- The low bytes of x stored from index i on leave every other entry alone. -/
theorem tableGet_storeBytes_lowBytes_of_outside {i k a : Nat} (h : a < i ∨ i + k ≤ a) (x : Nat) (t : Table 8) :
    tableGet (storeBytes (lowBytes x k) i t) a = tableGet t a :=
  h.elim (tableGet_storeBytes_below _ i t) fun ha => tableGet_storeBytes_above _ i t (by rwa [length_lowBytes])

/-- Every place of the payload buffer is one POS can hold (R46). -/
theorem pos_lt_of_fit {c : Params} (h : c.legal = true) {n : Nat} (hn : n ≤ c.payloadBytes) : n < 2 ^ 25 :=
  (hn.trans (payloadBytes_of_legal h).2).trans_lt (by decide)

theorem flushBytes_eq_lowBytes (x : Word) : flushBytes x = lowBytes x.toNat 4 := by
  have hbyte (j : Nat) : x.extractLsb' j 8 = BitVec.ofNat 8 (x.toNat / 2 ^ j) := by
    rw [← Nat.shiftRight_eq_div_pow]
    rfl
  rw [flushBytes, hbyte, hbyte, hbyte, hbyte]
  rfl

/-! ## Values of RANS_X -/

theorem toNat_wordOrFree {tick : Nat} {v : Int} (h0 : 0 ≤ v) (h : v < 2 ^ 32) :
    ((wordOrFree tick v).toNat : Int) = v := by
  obtain ⟨n, rfl⟩ := Int.eq_ofNat_of_zero_le h0
  have hn : n < 2 ^ 32 := by exact_mod_cast h
  rw [wordOrFree_of_lt hn, toNat_ofNat_of_lt hn]

theorem toNat_encodedState {tick x f cf : Nat} (hf : 1 ≤ f) (h : encStep x f cf < 2 ^ 32) :
    (encodedState tick x f cf).toNat = encStep x f cf := by
  rw [encodedState, if_neg (by omega), wordOrFree_of_lt h, toNat_ofNat_of_lt h]

theorem toNat_append_byte {n : Nat} (x : BitVec n) (b : Byte) : (x ++ b).toNat = x.toNat * 2 ^ 8 + b.toNat := by
  rw [BitVec.toNat_append, ← Nat.shiftLeft_add_eq_or_of_lt b.isLt, Nat.shiftLeft_eq]

/-- The tail is a number written low byte first (R290). -/
theorem toNat_tailState (s : State) : (tailState s).toNat
    = (readPay s (s.pos.toNat - 4)).toNat + (readPay s (s.pos.toNat - 3)).toNat * 2 ^ 8
      + (readPay s (s.pos.toNat - 2)).toNat * 2 ^ 16 + (readPay s (s.pos.toNat - 1)).toNat * 2 ^ 24 := by
  rw [tailState, toNat_append_byte, toNat_append_byte, toNat_append_byte]
  omega

/-! ## RANS_ENC -/

/-- EncRenorm shifts out the least number of bytes that bring the state below its bound, or, where none does, as many as
it may (R282). -/
theorem encRenorm_of_least {bound n x k : Nat} (hge : ∀ j < k, bound ≤ x / 2 ^ (8 * j))
    (hend : k = n ∨ k ≤ n ∧ x / 2 ^ (8 * k) < bound) : encRenorm bound n x = (x / 2 ^ (8 * k), lowBytes x k) := by
  obtain ⟨m, hm, heq, hge', hend'⟩ := encRenorm_cases bound n x
  obtain rfl : m = k := by
    rcases Nat.lt_trichotomy m k with hlt | hmk | hgt
    · have := hge m hlt
      omega
    · exact hmk
    · have := hge' k hgt
      omega
  exact heq

/-- The number of bytes RANS_ENC pushes: for f >= 1 the least that bring X below XMAX(f), for f = 0 a free number (R285,
log entry 7). -/
theorem encRenorm_of_shifts {c : Params} {x f k tick : Nat} (hx : x < 2 ^ 32)
    (hk : f = 0 ∧ k = Config.freeShifts tick
      ∨ 1 ≤ f ∧ x / 2 ^ (8 * k) < c.xmax f ∧ ∀ j < k, c.xmax f ≤ x / 2 ^ (8 * j)) :
    encRenorm (c.xmax f) (shiftLimit f tick) x = (x / 2 ^ (8 * k), lowBytes x k) := by
  rcases hk with ⟨rfl, rfl⟩ | ⟨hf, hlt, hge⟩
  · have hbound : c.xmax 0 = 0 := Nat.zero_mul _
    rw [hbound]
    exact encRenorm_of_least (fun j _ => Nat.zero_le _) (.inl rfl)
  · rw [shiftLimit, if_neg (by omega)]
    refine encRenorm_of_least hge (.inr ⟨?_, hlt⟩)
    by_contra h4
    have hbound : c.xmax f ≤ x / 2 ^ 32 := hge 4 (Nat.lt_of_not_le h4)
    have := one_le_xmax c hf
    omega

theorem exec_ransEnc_of_mode {s : State} (h : s.rmode ≠ .enc) (y : Sym) : exec (.ransEnc y) s
    = .next (raise (encode (.ransEnc y)) .ransState ((rmodeCode s.rmode).setWidth 32) s) :=
  congrArg Host.Outcome.next (if_pos h)

theorem exec_ransEnc_of_noModel {s : State} (hm : s.rmode = .enc) (hv : s.modelValid = false) (y : Sym) :
    exec (.ransEnc y) s = .next (raise (encode (.ransEnc y)) .noModel 0 s) :=
  congrArg Host.Outcome.next ((if_neg (not_not.2 hm)).trans (if_pos hv))

section
variable {s : State} {y : Sym} {x k : Nat} (hm : s.rmode = .enc) (hv : s.modelValid = true)
  (hr : encRenorm (s.cfg.xmax (readFreq s y.toNat).toNat) (shiftLimit (readFreq s y.toNat).toNat s.tick) s.ransX.toNat
    = (x, lowBytes s.ransX.toNat k))
include hm hv hr

theorem exec_ransEnc_of_fit (hfit : s.pos.toNat + k ≤ s.cfg.payloadBytes) : exec (.ransEnc y) s
    = .next { pushBytes (lowBytes s.ransX.toNat k) s with
        ransX := encodedState s.tick x (readFreq s y.toNat).toNat (readCum s y.toNat).toNat
        ransCnt := s.ransCnt + 1 } := by
  refine congrArg Host.Outcome.next ((if_neg (not_not.2 hm)).trans ((if_neg (by simp [hv])).trans ?_))
  simp only [encodeSymbol, symbolOperand, hr, length_lowBytes]
  exact if_neg (Nat.not_lt.2 hfit)

theorem exec_ransEnc_of_full (hfull : s.cfg.payloadBytes < s.pos.toNat + k) : exec (.ransEnc y) s
    = .next (raise (encode (.ransEnc y)) .bufOverflow (s.pos.setWidth 32) s) := by
  refine congrArg Host.Outcome.next ((if_neg (not_not.2 hm)).trans ((if_neg (by simp [hv])).trans ?_))
  simp only [encodeSymbol, symbolOperand, hr, length_lowBytes]
  exact if_pos hfull

end

/-! ## RANS_ENC_FLUSH and RANS_DEC_INIT -/

theorem exec_ransEncFlush_of_mode {s : State} (h : s.rmode ≠ .enc) : exec .ransEncFlush s
    = .next (raise (encode .ransEncFlush) .ransState ((rmodeCode s.rmode).setWidth 32) s) :=
  congrArg Host.Outcome.next (if_pos h)

theorem exec_ransEncFlush_of_full {s : State} (hm : s.rmode = .enc) (h : s.cfg.payloadBytes < s.pos.toNat + 4) :
    exec .ransEncFlush s = .next (raise (encode .ransEncFlush) .bufOverflow (s.pos.setWidth 32) s) :=
  congrArg Host.Outcome.next ((if_neg (not_not.2 hm)).trans (if_pos h))

theorem exec_ransEncFlush_of_fit {s : State} (hm : s.rmode = .enc) (h : s.pos.toNat + 4 ≤ s.cfg.payloadBytes) :
    exec .ransEncFlush s = .next { pushBytes (lowBytes s.ransX.toNat 4) s with rmode := .idle } := by
  rw [← flushBytes_eq_lowBytes]
  exact congrArg Host.Outcome.next ((if_neg (not_not.2 hm)).trans (if_neg (Nat.not_lt.2 h)))

theorem exec_ransDecInit_of_tail {s : State} (h : 4 ≤ s.pos.toNat) : exec .ransDecInit s
    = .next { s with ransX := tailState s, pos := s.pos - 4, rmode := .dec, ransCnt := 0 } :=
  congrArg Host.Outcome.next (if_neg (Nat.not_lt.2 h))

theorem exec_ransDecInit_of_short {s : State} (h : s.pos.toNat < 4) : exec .ransDecInit s
    = .next (raise (encode .ransDecInit) .ransUnderflow (s.pos.setWidth 32) s) :=
  congrArg Host.Outcome.next (if_pos h)

/-! ## RANS_DEC -/

theorem exec_ransDec_of_mode {s : State} (h : s.rmode ≠ .dec) : exec .ransDec s
    = .next (raise (encode .ransDec) .ransState ((rmodeCode s.rmode).setWidth 32) s) :=
  congrArg Host.Outcome.next (if_pos h)

theorem exec_ransDec_of_noModel {s : State} (hm : s.rmode = .dec) (hv : s.modelValid = false) :
    exec .ransDec s = .next (raise (encode .ransDec) .noModel 0 s) :=
  congrArg Host.Outcome.next ((if_neg (not_not.2 hm)).trans (if_pos hv))

theorem exec_ransDec_of_ready {s : State} (hm : s.rmode = .dec) (hv : s.modelValid = true) :
    exec .ransDec s = .next (decodeSymbol s) :=
  congrArg Host.Outcome.next ((if_neg (not_not.2 hm)).trans (if_neg (by simp [hv])))

theorem decodeSymbol_of_some {s : State} {x : Int} {p : Nat}
    (h : decRenorm s.cfg.low (readPay s) s.pos.toNat (steppedState s) = some (x, p)) : decodeSymbol s
    = { s with ransX := wordOrFree s.tick x, pos := BitVec.ofNat 25 p, result := (slotSymbol s).setWidth 32,
               ransCnt := s.ransCnt + 1 } := by
  simp only [decodeSymbol, h]

theorem decodeSymbol_of_none {s : State} (h : decRenorm s.cfg.low (readPay s) s.pos.toNat (steppedState s) = none) :
    decodeSymbol s = raise (encode .ransDec) .ransUnderflow (s.pos.setWidth 32) s := by
  simp only [decodeSymbol, h]

section
variable {s : State} {x : Int} (hm : s.rmode = .dec) (hv : s.modelValid = true) (hx : steppedState s = x)
include hm hv hx

/-- RANS_DEC completes over the least number of pops that bring the state DecStep gives to LOW (R289, R291). -/
theorem exec_ransDec_of_least {k : Nat} (hk : k ≤ s.pos.toNat)
    (hge : 2 ^ s.cfg.ransB ≤ popFold (readPay s) s.pos.toNat x k)
    (hleast : ∀ j < k, popFold (readPay s) s.pos.toNat x j < 2 ^ s.cfg.ransB) : exec .ransDec s
    = .next { s with ransX := wordOrFree s.tick (popFold (readPay s) s.pos.toNat x k),
                     pos := BitVec.ofNat 25 (s.pos.toNat - k), result := (slotSymbol s).setWidth 32,
                     ransCnt := s.ransCnt + 1 } := by
  subst hx
  have hlow : (s.cfg.low : Int) = 2 ^ s.cfg.ransB := Nat.cast_pow 2 s.cfg.ransB
  rw [exec_ransDec_of_ready hm hv, decodeSymbol_of_some (decRenorm_of_least hk (hlow ▸ hge) (hlow ▸ hleast))]

/-- RANS_DEC underflows when all pops do not bring the state DecStep gives to LOW (R289, R291). -/
theorem exec_ransDec_of_short (hlt : ∀ j ≤ s.pos.toNat, popFold (readPay s) s.pos.toNat x j < 2 ^ s.cfg.ransB) :
    exec .ransDec s = .next (raise (encode .ransDec) .ransUnderflow (s.pos.setWidth 32) s) := by
  subst hx
  have hlow : (s.cfg.low : Int) = 2 ^ s.cfg.ransB := Nat.cast_pow 2 s.cfg.ransB
  rw [exec_ransDec_of_ready hm hv, decodeSymbol_of_none (decRenorm_of_short (hlow ▸ hlt))]

end

/-! ## The mode faults' information -/

/-- RANS_STATE reports RMODE: 2, a decode, or 0 where the command needs ENC (R285, R287). -/
theorem rmodeInfo_of_ne_enc {m : RMode} (h : m ≠ .enc) : (rmodeCode m).setWidth 32 = if m = .idle then 0 else 2 := by
  cases m with
  | idle => rfl
  | enc => exact absurd rfl h
  | dec => rfl

/-- RANS_STATE reports RMODE: 1, an encode, or 0 where the command needs DEC (R291). -/
theorem rmodeInfo_of_ne_dec {m : RMode} (h : m ≠ .dec) : (rmodeCode m).setWidth 32 = if m = .idle then 0 else 1 := by
  cases m with
  | idle => rfl
  | enc => rfl
  | dec => exact absurd rfl h

end Sys2Proof.Machine

open Sys2Proof Sys2Proof.Machine

/-- Settles O46: the rule is the four assignments, and 2^RANS_B fits a word. -/
theorem ransEncInitStartsTheEncoder : Obligations.RansEncInitStartsTheEncoder := by
  refine ⟨by decide, fun s hlegal => ⟨_, rfl, toNat_ofNat_of_lt ?_, rfl⟩⟩
  obtain ⟨hlow, hmax⟩ := low_bounds hlegal
  omega

/-- Settles O47: EncRenorm's bytes are the low k bytes of X, which the push stores where they fit. -/
theorem ransEncPushesAndUpdates : Obligations.RansEncPushesAndUpdates := by
  intro s y hlegal
  dsimp only
  refine ⟨fun hm hv k hk => ?_, fun hm => ?_, fun hm hv => exec_ransEnc_of_noModel hm hv y⟩
  · rw [← (xmax_eq hlegal _).1] at hk
    have hr := encRenorm_of_shifts s.ransX.isLt hk
    refine ⟨fun hfit => ⟨_, exec_ransEnc_of_fit hm hv hr hfit, toNat_encodedState, ?_,
      fun j hj => tableGet_storeBytes_lowBytes hj _ _, fun a ha => tableGet_storeBytes_lowBytes_of_outside ha _ _, rfl⟩,
      exec_ransEnc_of_full hm hv hr⟩
    rw [pushBytes_pos, length_lowBytes]
    exact toNat_ofNat_of_lt (pos_lt_of_fit hlegal hfit)
  · rw [exec_ransEnc_of_mode hm, rmodeInfo_of_ne_enc hm]
    rfl

/-- Settles O48: the flush pushes the low 4 bytes of X. -/
theorem ransEncFlushAppendsTheState : Obligations.RansEncFlushAppendsTheState := by
  refine fun s hlegal => ⟨fun hm hfit => ⟨_, exec_ransEncFlush_of_fit hm hfit, ?_,
    fun j hj => tableGet_storeBytes_lowBytes hj _ _, fun a ha => tableGet_storeBytes_lowBytes_of_outside ha _ _, rfl⟩,
    exec_ransEncFlush_of_full, fun hm => ?_⟩
  · exact toNat_ofNat_of_lt (pos_lt_of_fit hlegal hfit)
  · rw [exec_ransEncFlush_of_mode hm, rmodeInfo_of_ne_enc hm]
    rfl

/-- Settles O49: the tail is read as a number low byte first, and POS moves below it. -/
theorem ransDecInitReadsTheTail : Obligations.RansDecInitReadsTheTail :=
  fun s => ⟨fun h => ⟨_, exec_ransDecInit_of_tail h, toNat_tailState s, BitVec.toNat_sub_of_le h, rfl⟩,
    exec_ransDecInit_of_short⟩

/-- Settles O50: DecRenorm pops the least number of bytes, each fold being one of its pops. -/
theorem ransDecPopsAndUpdates : Obligations.RansDecPopsAndUpdates := by
  intro s _ _
  dsimp only
  have hstart : steppedState s = (((readFreq s (slotSymbol s).toNat).toNat * (s.ransX.toNat / 4096) : Nat) : Int)
      + ((slotOf s : Int) - ((readCum s (slotSymbol s).toNat).toNat : Int)) := by
    rw [Nat.cast_mul]
    rfl
  refine ⟨fun hm hv => ⟨fun k hk hge hleast => ⟨_, exec_ransDec_of_least hm hv hstart hk hge hleast,
    toNat_wordOrFree ((Int.pow_nonneg (by decide)).trans hge), toNat_ofNat_of_lt ?_, rfl⟩,
    exec_ransDec_of_short hm hv hstart⟩, fun hm => ?_, exec_ransDec_of_noModel⟩
  · exact (Nat.sub_le _ _).trans_lt s.pos.isLt
  · rw [exec_ransDec_of_mode hm, rmodeInfo_of_ne_dec hm]
    rfl
end

section
/-! The coder's round trip (44_rans.md R292 to R295): a decoder that holds what the encoder has pushed pops, command by
command, back through the encoder's states. -/
namespace Sys2Proof.Machine

/-- Sequences run one after the other are one sequence. -/
theorem execEach_append {α : Type} {command : α → Instr} {l l' : List α} {s t u : State} {ws ws' : List Word}
    (h : execEach command l s = some (ws, t)) (h' : execEach command l' t = some (ws', u)) :
    execEach command (l ++ l') s = some (ws ++ ws', u) := by
  induction l generalizing s ws with
  | nil => cases h; exact h'
  | cons a l ih =>
    obtain ⟨v, vs, hexec, hf, hrest, rfl⟩ := execEach_cons_eq_some_iff.1 h
    exact execEach_cons_eq_some_iff.2 ⟨v, vs ++ ws', hexec, hf, ih hrest, rfl⟩

/-! ## The payload's length -/

/-- Where the encoder's state is after n symbols of the only valid model: in the lower 4 bits of the interval's byte
after an even number, in the upper 4 after an odd one (R295). -/
def InPhase (c : Params) (n x : Nat) : Prop :=
  2 ^ (c.ransB - 12) * 16 ^ (n % 2) * 2 ^ 12 ≤ x ∧ x < 2 ^ (c.ransB - 12) * 16 ^ (n % 2) * 2 ^ 16

/-- The bytes RANS_ENC pushes after n symbols of the only valid model (R295). -/
abbrev phaseBytes (n : Nat) : Nat := 1 + n % 2

section
variable {c : Params} {n x : Nat} (hc : c.legal = true)
include hc

theorem inPhase_low : InPhase c 0 c.low := by
  have hpos := Nat.two_pow_pos (c.ransB - 12)
  rw [low_eq hc, InPhase, Nat.zero_mod]
  omega

theorem InPhase.mem_interval (h : InPhase c n x) : c.low ≤ x ∧ x < c.low * 2 ^ 8 := by
  rw [low_eq hc]
  unfold InPhase at h
  generalize 2 ^ (c.ransB - 12) = q at h ⊢
  rcases Nat.mod_two_eq_zero_or_one n with hn | hn <;> rw [hn] at h <;> constructor <;> omega

/-- The bytes of a phase are the least number that brings the state below XMAX(1) (R285, R295). -/
theorem InPhase.shifts (h : InPhase c n x) : x / 2 ^ (8 * phaseBytes n) < c.xmax 1
    ∧ ∀ j < phaseBytes n, c.xmax 1 ≤ x / 2 ^ (8 * j) := by
  rw [(xmax_eq hc 1).2, phaseBytes]
  unfold InPhase at h
  generalize 2 ^ (c.ransB - 12) = q at h ⊢
  rcases Nat.mod_two_eq_zero_or_one n with hn | hn
  · rw [hn] at h ⊢
    refine ⟨by omega, fun j hj => ?_⟩
    obtain rfl : j = 0 := by omega
    by_contra hlt
    omega
  · rw [hn] at h ⊢
    refine ⟨by omega, fun j hj => ?_⟩
    by_contra hlt
    obtain rfl | rfl : j = 0 ∨ j = 1 := by omega
    · omega
    · omega

end

/-- A symbol takes the state from its phase to the other. -/
theorem InPhase.encStep {c : Params} {n x y : Nat} (h : InPhase c n x) (hy : y < 4096) :
    InPhase c (n + 1) (encStep (x / 2 ^ (8 * phaseBytes n)) 1 y) := by
  unfold Machine.encStep InPhase phaseBytes Config.scale at *
  rw [Nat.div_one, Nat.mod_one]
  generalize 2 ^ (c.ransB - 12) = q at h ⊢
  rcases Nat.mod_two_eq_zero_or_one n with hn | hn
  · rw [hn] at h ⊢
    rw [show (n + 1) % 2 = 1 by omega]
    constructor <;> by_contra hout <;> omega
  · rw [hn] at h ⊢
    rw [show (n + 1) % 2 = 0 by omega]
    constructor <;> by_contra hout <;> omega

/-! ## The coder over a valid model -/

/-- The coder is in mode m over a valid model, with the symbols' FREQ entries written, and no fault is held. -/
structure CoderReady (m : RMode) (syms : List Sym) (s : State) : Prop where
  inv : Inv s
  noFault : s.fault = none
  mode : s.rmode = m
  valid : s.modelValid = true
  written : ∀ y ∈ syms, tableGet s.mem.freq y.toNat ≠ none

/-- A coder command that does not fault leaves the coder ready, in the mode it leaves. -/
theorem CoderReady.of_exec {m m' : RMode} {syms : List Sym} {s t : State} {i : Instr} (h : CoderReady m syms s)
    (he : exec i s = .next t) (hframe : CoderFrame s t) (hf : t.fault = none) (hm : t.rmode = m') :
    CoderReady m' syms t where
  inv := h.inv.exec he
  noFault := hf
  mode := hm
  valid := hframe.modelValid.trans h.valid
  written := by
    rw [hframe.mem]
    exact h.written

/-- What the coder reads of a symbol: each owns the one slot of its own number (R253). -/
theorem CoderReady.reads {m : RMode} {syms : List Sym} {s : State} (h : CoderReady m syms s) {y : Sym} (hy : y ∈ syms) :
    (readFreq s y.toNat).toNat = 1 ∧ (readCum s y.toNat).toNat = y.toNat ∧ readLut s y.toNat = y := by
  have hmodel := h.inv.model h.valid
  obtain ⟨hf, hc⟩ := read_of_uniformModel hmodel (h.written y hy)
  obtain ⟨-, -, hlut⟩ := hmodel y.toNat y.isLt
  exact ⟨hf, hc, by rw [readLut_of_get hlut, BitVec.ofNat_toNat, BitVec.setWidth_eq]⟩

/-! ## One symbol encoded -/

/-- An encode is at its n-th symbol: the state's phase and the bytes pushed so far (R295). -/
structure Encoding (syms : List Sym) (n : Nat) (s : State) : Prop extends CoderReady .enc syms s where
  phase : InPhase s.cfg n s.ransX.toNat
  pos : s.pos.toNat = n + n / 2

/-- RANS_ENC of y took s to t with k bytes pushed, over a frequency of 1 (R285). -/
structure Encoded (y : Sym) (k : Nat) (s t : State) : Prop where
  cfg : t.cfg = s.cfg
  fault : t.fault = s.fault
  rmode : t.rmode = s.rmode
  ransX : t.ransX.toNat = encStep (s.ransX.toNat / 2 ^ (8 * k)) 1 y.toNat
  pos : t.pos.toNat = s.pos.toNat + k
  bytes : ∀ j < k, tableGet t.mem.pay (s.pos.toNat + j) = some (BitVec.ofNat 8 (s.ransX.toNat / 2 ^ (8 * j)))
  below : ∀ a < s.pos.toNat, tableGet t.mem.pay a = tableGet s.mem.pay a

namespace Encoding
variable {syms : List Sym} {n : Nat} {s : State} {y : Sym}

theorem encRenorm_eq (h : Encoding syms n s) : encRenorm (s.cfg.xmax 1) (shiftLimit 1 s.tick) s.ransX.toNat
    = (s.ransX.toNat / 2 ^ (8 * phaseBytes n), lowBytes s.ransX.toNat (phaseBytes n)) :=
  encRenorm_of_shifts s.ransX.isLt (.inr ⟨le_rfl, h.phase.shifts h.inv.legal⟩)

theorem pos_add_phaseBytes (h : Encoding syms n s) : s.pos.toNat + phaseBytes n = (n + 1) + (n + 1) / 2 := by
  rw [h.pos, phaseBytes]
  omega

/-- What RANS_ENC of a symbol does where the payload has room (R285). -/
theorem encoded_of_exec (h : Encoding syms n s) (hy : y ∈ syms) (hfit : (n + 1) + (n + 1) / 2 ≤ s.cfg.payloadBytes)
    {t : State} (ht : exec (.ransEnc y) s = .next t) : Encoded y (phaseBytes n) s t := by
  obtain ⟨hf, hcf, -⟩ := h.reads hy
  rw [← h.pos_add_phaseBytes] at hfit
  have hr := h.encRenorm_eq
  rw [← hf] at hr
  have hword : encStep (s.ransX.toNat / 2 ^ (8 * phaseBytes n)) (readFreq s y.toNat).toNat (readCum s y.toNat).toNat
      < 2 ^ 32 := by
    rw [hf, hcf]
    exact ((h.phase.encStep y.isLt).mem_interval h.inv.legal).2.trans_le (low_bounds h.inv.legal).2
  cases (exec_ransEnc_of_fit h.mode h.valid hr hfit).symm.trans ht
  exact {
    cfg := rfl
    fault := rfl
    rmode := rfl
    ransX := (toNat_encodedState hf.ge hword).trans (by rw [hf, hcf])
    pos := by
      rw [pushBytes_pos, length_lowBytes]
      exact toNat_ofNat_of_lt (pos_lt_of_fit h.inv.legal hfit)
    bytes := fun j hj => tableGet_storeBytes_lowBytes hj _ _
    below := fun a ha => tableGet_storeBytes_lowBytes_of_outside (.inl ha) _ _ }

/-- RANS_ENC of a symbol takes the encode to the next where the payload has room (R285, R295). -/
theorem exec_ransEnc (h : Encoding syms n s) (hy : y ∈ syms) (hfit : (n + 1) + (n + 1) / 2 ≤ s.cfg.payloadBytes) :
    ∃ t, exec (.ransEnc y) s = .next t ∧ Encoded y (phaseBytes n) s t ∧ Encoding syms (n + 1) t := by
  obtain ⟨t, ht⟩ := exec_completes (.ransEnc y) s
  have henc := h.encoded_of_exec hy hfit ht
  refine ⟨t, ht, henc, h.of_exec ht (coderFrame_of_execRansEnc ht).1 (henc.fault.trans h.noFault)
    (henc.rmode.trans h.mode), ?_, henc.pos.trans h.pos_add_phaseBytes⟩
  rw [henc.cfg, henc.ransX]
  exact h.phase.encStep y.isLt

end Encoding

/-! ## One symbol decoded -/

/-- The decoder d stands where the encoder u does: the same state, over the bytes u has pushed. -/
structure Mirrors (u d : State) : Prop where
  cfg : d.cfg = u.cfg
  ransX : d.ransX = u.ransX
  pos : d.pos = u.pos
  pay : ∀ a < u.pos.toNat, tableGet d.mem.pay a = tableGet u.mem.pay a

/-- RANS_DEC's effect where it gives the symbol y and goes back to the encoder's state u. -/
def decoded (y : Sym) (u d : State) : State :=
  { d with ransX := u.ransX, pos := u.pos, result := y.setWidth 32, ransCnt := d.ransCnt + 1 }

section
variable {syms : List Sym} {n : Nat} {s t d : State} {y : Sym} (henc : Encoded y (phaseBytes n) s t) (hm : Mirrors t d)
include henc hm

/-- The slot is the last symbol encoded, and DecStep gives the state before EncStep (R292). -/
theorem slotSymbol_and_steppedState_of_mirrors (hd : CoderReady .dec syms d) (hy : y ∈ syms) :
    slotSymbol d = y ∧ steppedState d = (s.ransX.toNat / 2 ^ (8 * phaseBytes n) : Nat) := by
  obtain ⟨hf, hcf, hlut⟩ := hd.reads hy
  have hyb : y.toNat + 1 ≤ 4096 := y.isLt
  have hx := henc.ransX
  rw [← hm.ransX] at hx
  obtain ⟨hmod, -⟩ := encStep_mod_div (x := s.ransX.toNat / 2 ^ (8 * phaseBytes n)) le_rfl hyb
  have hslot : slotOf d = y.toNat := by
    rw [slotOf, hx, Config.scale, hmod, Nat.mod_one, Nat.zero_add]
  have hsym : slotSymbol d = y := by rw [slotSymbol, hslot, hlut]
  refine ⟨hsym, ?_⟩
  rw [steppedState, hsym, hf, hcf, slotOf, hx]
  exact decStep_encStep le_rfl hyb

/-- RANS_DEC gives the last symbol encoded and goes back to the encoder's state before it (R292). -/
theorem exec_ransDec_of_mirrors (h : Encoding syms n s) (hd : CoderReady .dec syms d) (hy : y ∈ syms) :
    exec .ransDec d = .next (decoded y s d) := by
  obtain ⟨hsym, hstep⟩ := slotSymbol_and_steppedState_of_mirrors henc hm hd hy
  obtain ⟨hlo, hhi⟩ := h.phase.mem_interval h.inv.legal
  have hcfg : d.cfg = s.cfg := hm.cfg.trans henc.cfg
  have hpay (j : Nat) (b : Byte) (hb : (lowBytes s.ransX.toNat (phaseBytes n))[j]? = some b) :
      readPay d (s.pos.toNat + j) = b := by
    obtain ⟨hj, rfl⟩ := List.getElem?_eq_some_iff.1 hb
    have hj' : j < phaseBytes n := hj.trans_eq (length_lowBytes _ _)
    rw [getElem_lowBytes]
    exact readPay_of_get ((hm.pay _ (henc.pos ▸ Nat.add_lt_add_left hj' _)).trans (henc.bytes j hj'))
  have hpop := decRenorm_encRenorm (bound := s.cfg.xmax 1) (n := shiftLimit 1 s.tick) (pay := readPay d)
    (p := s.pos.toNat) hlo hhi
  rw [h.encRenorm_eq, length_lowBytes, ← henc.pos, ← hm.pos] at hpop
  rw [exec_ransDec_of_ready hd.mode hd.valid, decodeSymbol_of_some (by rw [hcfg, hstep]; exact hpop hpay), hsym,
    wordOrFree_of_lt s.ransX.isLt, BitVec.ofNat_toNat, BitVec.ofNat_toNat, BitVec.setWidth_eq, BitVec.setWidth_eq]
  rfl

/-- The decoder then stands where the encoder did before the symbol. -/
theorem mirrors_decoded : Mirrors s (decoded y s d) where
  cfg := hm.cfg.trans henc.cfg
  ransX := rfl
  pos := rfl
  pay a ha := (hm.pay a (henc.pos ▸ Nat.lt_add_right _ ha)).trans (henc.below a ha)

end

/-! ## All symbols -/

/-- From where the encoder u stands a decoder gives the symbols l, and ends where the encoder s stood (R292). -/
def DecodesBack (syms l : List Sym) (u s : State) : Prop :=
  ∀ (d : State) (ks : List Nat), ks.length = l.length → CoderReady .dec syms d → Mirrors u d →
    ∃ out e, execEach (fun _ : Nat => .ransDec) ks d = some (out, e) ∧ out.map (fun x : Word => x.setWidth 12) = l
      ∧ Mirrors s e ∧ e.ransCnt = d.ransCnt + BitVec.ofNat 32 l.length

theorem decodesBack_nil (syms : List Sym) (s : State) : DecodesBack syms [] s s := by
  intro d ks hks _ hm
  obtain rfl := List.eq_nil_of_length_eq_zero hks
  exact ⟨[], d, rfl, rfl, hm, (BitVec.add_zero _).symm⟩

/-- The symbol encoded last comes back first. -/
theorem DecodesBack.cons {syms l : List Sym} {n : Nat} {s u t : State} {y : Sym} (h : DecodesBack syms l u s)
    (hu : Encoding syms n u) (hy : y ∈ syms) (henc : Encoded y (phaseBytes n) u t) : DecodesBack syms (y :: l) t s := by
  intro d ks hks hd hm
  obtain ⟨k, ks, rfl⟩ := List.exists_cons_of_length_eq_add_one hks
  have he := exec_ransDec_of_mirrors henc hm hu hd hy
  have hready : CoderReady .dec syms (decoded y u d) := hd.of_exec he (coderFrame_of_execRansDec he) hd.noFault hd.mode
  have hresult : (decoded y u d).result.setWidth 12 = y := by simp [decoded]
  obtain ⟨out, e, hrest, hout, hend, hcnt⟩ := h _ ks (Nat.succ_injective hks) hready (mirrors_decoded henc hm)
  refine ⟨_, e, execEach_cons_eq_some_iff.2 ⟨_, out, he, hready.noFault, hrest, rfl⟩,
    by rw [List.map_cons, hresult, hout], hend, ?_⟩
  rw [hcnt, List.length_cons, BitVec.ofNat_add, BitVec.add_comm (BitVec.ofNat 32 _), ← BitVec.add_assoc]
  rfl

/-- RANS_ENC over symbols last first completes, with no fault, and they decode back (R294, R295). -/
theorem Encoding.execEach_reverse {syms l : List Sym} {s : State} (h : Encoding syms 0 s) (hl : l ⊆ syms)
    (hfit : l.length + l.length / 2 ≤ s.cfg.payloadBytes) :
    ∃ enc u, execEach .ransEnc l.reverse s = some (enc, u) ∧ Encoding syms l.length u ∧ u.cfg = s.cfg
      ∧ DecodesBack syms l u s := by
  induction l with
  | nil => exact ⟨[], s, rfl, h, rfl, decodesBack_nil syms s⟩
  | cons y l ih =>
    obtain ⟨hy, hl⟩ := List.cons_subset.1 hl
    rw [List.length_cons] at hfit
    obtain ⟨enc, u, hrun, hu, hcfg, hback⟩ := ih hl (by omega)
    obtain ⟨t, he, henc, hnext⟩ := hu.exec_ransEnc hy (hcfg ▸ hfit)
    refine ⟨enc ++ [t.result], t, ?_, hnext, henc.cfg.trans hcfg, hback.cons hu hy henc⟩
    rw [List.reverse_cons]
    exact execEach_append hrun (execEach_cons_eq_some_iff.2 ⟨t, [], he, hnext.noFault, rfl, rfl⟩)

/-! ## The start, the flush and the decoder's start -/

/-- RANS_ENC_INIT starts an encode of no symbols (R284). -/
theorem encoding_ransEncInit {syms : List Sym} {s : State} (h : CoderReady s.rmode syms s) :
    Encoding syms 0 { s with ransX := BitVec.ofNat 32 s.cfg.low, pos := 0, rmode := .enc, ransCnt := 0 } where
  toCoderReady := h.of_exec (i := .ransEncInit) rfl (.withCoder s s.result _ _ _ _ s.mem.pay) h.noFault rfl
  phase := by
    obtain ⟨hlow, hmax⟩ := low_bounds h.inv.legal
    show InPhase s.cfg 0 (BitVec.ofNat 32 s.cfg.low).toNat
    rw [toNat_ofNat_of_lt (by omega)]
    exact inPhase_low h.inv.legal
  pos := rfl

/-- The tail of a payload that ends with the flush's bytes is the state flushed (R287, R290). -/
theorem tailState_of_lowBytes {s : State} {x : Word} {p : Nat} (hp : s.pos.toNat = p + 4)
    (h : ∀ j < 4, tableGet s.mem.pay (p + j) = some (BitVec.ofNat 8 (x.toNat / 2 ^ (8 * j)))) : tailState s = x := by
  have hbyte (j : Nat) (hj : j < 4) : (readPay s (p + j)).toNat = x.toNat / 2 ^ (8 * j) % 2 ^ 8 := by
    rw [readPay_of_get (h j hj), BitVec.toNat_ofNat]
  apply BitVec.eq_of_toNat_eq
  have hx := x.isLt
  rw [toNat_tailState, hp, show p + 4 - 4 = p + 0 by omega, show p + 4 - 3 = p + 1 by omega,
    show p + 4 - 2 = p + 2 by omega, show p + 4 - 1 = p + 3 by omega, hbyte 0 (by decide), hbyte 1 (by decide),
    hbyte 2 (by decide), hbyte 3 (by decide)]
  omega

/-- RANS_ENC_FLUSH and RANS_DEC_INIT turn an encoder into the decoder that stands where it did (R287, R290). -/
theorem Encoding.flush {syms : List Sym} {n : Nat} {s : State} (h : Encoding syms n s)
    (hfit : 4 + n + n / 2 ≤ s.cfg.payloadBytes) : ∃ t d, exec .ransEncFlush s = .next t
      ∧ t.pos.toNat = 4 + n + n / 2 ∧ exec .ransDecInit t = .next d ∧ CoderReady .dec syms d ∧ Mirrors s d
      ∧ d.ransCnt = 0 := by
  have hroom : s.pos.toNat + 4 ≤ s.cfg.payloadBytes := by
    have := h.pos
    omega
  have hflush := exec_ransEncFlush_of_fit h.mode hroom
  have hpos : ({ pushBytes (lowBytes s.ransX.toNat 4) s with rmode := .idle } : State).pos.toNat = s.pos.toNat + 4 :=
    toNat_ofNat_of_lt (pos_lt_of_fit h.inv.legal hroom)
  have h4 := (Nat.le_add_left 4 _).trans_eq hpos.symm
  have hinit := exec_ransDecInit_of_tail h4
  have hidle := h.of_exec hflush (coderFrame_of_execRansEncFlush hflush).1 h.noFault rfl
  refine ⟨_, _, hflush, ?_, hinit, hidle.of_exec hinit (coderFrame_of_execRansDecInit hinit).1 h.noFault rfl,
    ⟨rfl, ?_, ?_, ?_⟩, rfl⟩
  · rw [hpos, h.pos]
    omega
  · exact tailState_of_lowBytes hpos fun j hj => tableGet_storeBytes_lowBytes hj _ _
  · exact BitVec.eq_of_toNat_eq ((BitVec.toNat_sub_of_le h4).trans (by rw [hpos]; rfl))
  · exact fun a ha => tableGet_storeBytes_lowBytes_of_outside (.inl ha) _ _

end Sys2Proof.Machine

open Sys2Proof Sys2Proof.Machine

/-- Settles O53: the flush and RANS_DEC_INIT hand the encoder's state and bytes to a decoder, which pops back to where
RANS_ENC_INIT began. -/
theorem ransRoundTrip : Obligations.RansRoundTrip := by
  intro s syms hinv hf hv hwritten
  dsimp only
  intro hfit
  have hstart := encoding_ransEncInit (syms := syms) ⟨hinv, hf, rfl, hv, hwritten⟩
  obtain ⟨enc, s2, henc, hs2, hcfg, hdec⟩ := hstart.execEach_reverse (List.Subset.refl syms)
    (show _ ≤ s.cfg.payloadBytes by omega)
  obtain ⟨s3, s4, hflush, hpos, hinit, hready, hm, hcnt⟩ := hs2.flush (hcfg ▸ hfit)
  obtain ⟨out, s5, hout, hsyms, hend, hcnt'⟩ := hdec s4 (List.range syms.length) List.length_range hready hm
  refine ⟨_, s2, s3, s4, out, s5, rfl, ⟨enc, henc⟩, hflush, hpos, hinit, hout, hsyms, ?_, hend.pos, ?_⟩
  · obtain ⟨hlow, hmax⟩ := low_bounds hinv.legal
    rw [hend.ransX]
    exact toNat_ofNat_of_lt (by omega)
  · rw [hcnt', hcnt]
    exact BitVec.zero_add _
end

section
/-! The entropy container file: what the loader reads off the front of a file the writer made (48_host_interface.md R340
to R344). -/
namespace Sys2Proof.Machine

/-! ## Reading a field that was written -/

theorem takeLE_bytesLE_append {n v : Nat} (h : v < 2 ^ (8 * n)) (rest : List Byte) :
    takeLE n (bytesLE n v ++ rest) = some (v, rest) := by
  induction n generalizing v with
  | zero =>
    obtain rfl : v = 0 := by simpa using h
    rfl
  | succ n ih =>
    have hhigh : v / 2 ^ 8 < 2 ^ (8 * n) := Nat.div_lt_of_lt_mul (by rwa [← Nat.pow_add, Nat.add_comm])
    simp only [bytesLE, List.cons_append, takeLE, ih hhigh, BitVec.toNat_ofNat, Nat.mod_add_div]

/-- An array of 16-bit values is read back by its count, the values as they were (R340). -/
theorem takeHalves_flatMap_append {n : Nat} {hs : List Half} (h : hs.length = n) (rest : List Byte) :
    takeHalves n (hs.flatMap (fun x => bytesLE 2 x.toNat) ++ rest) = some (hs, rest) := by
  subst h
  induction hs with
  | nil => rfl
  | cons x hs ih =>
    have hx := takeLE_bytesLE_append (n := 2) x.isLt (hs.flatMap (fun x => bytesLE 2 x.toNat) ++ rest)
    simp only [List.length_cons, takeHalves, List.flatMap_cons, List.append_assoc, hx, ih, BitVec.ofNat_toNat,
      BitVec.setWidth_eq]

/-- A loader that reads a written field goes on with its value and the rest of the file. -/
theorem takeLE_bytesLE_bind {n v : Nat} (h : v < 2 ^ (8 * n)) {α : Type} {rest : List Byte}
    {f : Nat × List Byte → Option α} : (takeLE n (bytesLE n v ++ rest) >>= f) = f (v, rest) := by
  rw [takeLE_bytesLE_append h]
  rfl

theorem takeHalves_flatMap_bind {n : Nat} {hs : List Half} (h : hs.length = n) {α : Type} {rest : List Byte}
    {f : List Half × List Byte → Option α} :
    (takeHalves n (hs.flatMap (fun x => bytesLE 2 x.toNat) ++ rest) >>= f) = f (hs, rest) := by
  rw [takeHalves_flatMap_append h]
  rfl

@[simp] theorem takeBytes_length (bs : List Byte) : takeBytes bs.length bs = some bs := by
  induction bs with
  | nil => rfl
  | cons b bs ih => simp only [List.length_cons, takeBytes, ih]

/-! ## The widths of the fields -/

/-- Every number of a record fits the width of its field in the file (R340). -/
structure Record.FitsFields (r : Record) : Prop where
  mode        : r.mode < 2 ^ (8 * 4)
  width       : r.width < 2 ^ (8 * 4)
  height      : r.height < 2 ^ (8 * 4)
  channels    : r.channels < 2 ^ (8 * 4)
  symbolCount : r.symbolCount < 2 ^ (8 * 8)
  escapeCount : r.escapes.length < 2 ^ (8 * 8)
  escapeBytes : 2 * r.escapes.length < 2 ^ (8 * 8)
  payload     : r.payload.length < 2 ^ (8 * 8)

theorem Record.acceptable_iff {c : Params} {r : Record} : r.acceptable c = true ↔
    r.escapes.length ≤ c.escDepth ∧ r.payload.length ≤ c.payloadBytes ∧ r.mode ≤ 1
      ∧ (1 ≤ r.width ∧ r.width ≤ c.maxWidth) ∧ (1 ≤ r.height ∧ r.height ≤ 65535)
      ∧ (r.channels = 1 ∨ r.channels = 3) ∧ r.symbolCount = r.width * r.height * r.channels
      ∧ r.freqs.length = 4096 := by
  simp only [Record.acceptable, Bool.and_eq_true, Bool.or_eq_true, beq_iff_eq, decide_eq_true_eq, and_assoc]

/-- What a legal instance accepts fits the file's fields: the largest count is 65535 * 65535 * 3 (R9, R342). -/
theorem Record.fitsFields_of_acceptable {c : Params} {r : Record} (hc : c.legal = true) (h : r.acceptable c = true) :
    r.FitsFields := by
  obtain ⟨hesc, hpay, hmode, ⟨-, hw⟩, ⟨-, hh⟩, hch, hcount, -⟩ := Record.acceptable_iff.1 h
  have hmaxw := (maxWidth_of_legal hc).2
  have hmaxp := (payloadBytes_of_legal hc).2
  have hmaxe := (escDepth_of_legal hc).2
  have hch3 : r.channels ≤ 3 := by omega
  have hcount_le : r.symbolCount ≤ 65535 * 65535 * 3 :=
    hcount.trans_le (Nat.mul_le_mul (Nat.mul_le_mul (hw.trans hmaxw) hh) hch3)
  constructor <;> omega

/-! ## Loading what was saved -/

/-- The loader reads every field of the file back and is left with the record's own checks (R341, R342). -/
theorem loadRecord_saveRecord {c : Params} {r : Record} (hfit : r.FitsFields) (h : r.acceptable c = true) :
    loadRecord c (saveRecord r) = some r := by
  obtain ⟨hesc, hpay, -, -, -, -, -, hfreqs⟩ := Record.acceptable_iff.1 h
  have hheader : ¬(0x534E4152 ≠ 0x534E4152 ∨ Config.scale ≠ Config.scale ∨ 4096 ≠ 4096) := by simp
  have hcounts : ¬(2 * r.escapes.length ≠ 2 * r.escapes.length ∨ r.escapes.length > c.escDepth
      ∨ r.payload.length > c.payloadBytes) := by omega
  simp only [saveRecord, List.append_assoc]
  simp only [loadRecord, ↓takeLE_bytesLE_bind (show 0x534E4152 < 2 ^ (8 * 4) by decide),
    ↓takeLE_bytesLE_bind hfit.mode, ↓takeLE_bytesLE_bind hfit.width, ↓takeLE_bytesLE_bind hfit.height,
    ↓takeLE_bytesLE_bind hfit.channels, ↓takeLE_bytesLE_bind hfit.symbolCount,
    ↓takeLE_bytesLE_bind (show Config.scale < 2 ^ (8 * 4) by decide), ↓if_neg hheader, ↓takeHalves_flatMap_bind hfreqs,
    ↓takeLE_bytesLE_bind hfit.escapeCount, ↓takeLE_bytesLE_bind hfit.escapeBytes, ↓takeLE_bytesLE_bind hfit.payload,
    ↓if_neg hcounts, ↓takeHalves_flatMap_bind rfl, takeBytes_length, Option.bind_eq_bind, Option.bind_some]
  exact if_pos h

end Sys2Proof.Machine

open Sys2Proof Sys2Proof.Machine

/-- Settles O58: every field is written and read back at its width, which an accepted record of a legal instance fits. -/
theorem containerRoundTrip : Obligations.ContainerRoundTrip :=
  fun _ _ hc h => loadRecord_saveRecord (Record.fitsFields_of_acceptable hc h) h
end

section
/-! A held fault record (60_exceptions.md R361, R367, R368): every operation of a step keeps it or drops it, and the two
words the gate lets through then drop it. -/
namespace Sys2Proof.Machine

/-- CLR_FAULT and SOFT_RESET are issued in every state and leave no record (R167, R168, R367). -/
theorem issue_drops_fault {w : Word} (hw : w = 0x01000000#32 ∨ w = 0x02000000#32) (s : State) :
    ∃ t, issue w s = .next t ∧ t.fault = none := by
  have hg : gateDiscards w s = false := gateDiscards_eq_false_iff.2 (.inr hw)
  rcases hw with rfl | rfl
  · exact ⟨clearFault s, (issue_of_decode_eq_some hg (by decide)).trans (exec_clrFault s), clearFault_fault s⟩
  · exact ⟨softReset s, (issue_of_decode_eq_some hg (by decide)).trans (exec_softReset s), softReset_fault s⟩

/-- While a record is held, a word is discarded or is one of the two that drop the record (R161, R368). -/
theorem issue_keeps_or_drops_fault {w : Word} {s t : State} (hs : s.fault ≠ none) (h : issue w s = .next t) :
    t.fault = s.fault ∨ t.fault = none := by
  cases hg : gateDiscards w s with
  | true =>
    rw [issue_of_gateDiscards hg] at h
    cases h
    exact .inl rfl
  | false =>
    have hw : w = 0x01000000#32 ∨ w = 0x02000000#32 := (gateDiscards_eq_false_iff.1 hg).resolve_left hs
    obtain ⟨u, hu, hnone⟩ := issue_drops_fault hw s
    rw [hu] at h
    cases h
    exact .inr hnone

/-- Of the registers only CMD can change a held record (R34). -/
theorem writeReg_keeps_or_drops_fault {r : Reg} {v : Word} {s t : State} (hs : s.fault ≠ none)
    (h : writeReg r v s = .next t) : t.fault = s.fault ∨ t.fault = none := by
  rcases writeReg_cases h with ⟨-, hi⟩ | rfl | rfl | rfl | rfl | rfl | rfl
  · exact issue_keeps_or_drops_fault hs hi
  · exact .inl rfl
  · exact .inl rfl
  · unfold writeEscLen; split <;> exact .inl rfl
  · unfold writeEscRd; split <;> exact .inl rfl
  · unfold writePayLen; split <;> exact .inl rfl
  · exact .inl rfl

theorem writeTarget_keeps_or_drops_fault {tg : Target} {v : Word} {s t : State} (hs : s.fault ≠ none)
    (h : writeTarget tg v s = .next t) : t.fault = s.fault ∨ t.fault = none := by
  cases tg with
  | reg r => exact writeReg_keeps_or_drops_fault hs h
  | _ => cases h; exact .inl rfl

/-- A step from a held record leaves that record or none: no second one arises (R368). -/
theorem step_keeps_or_drops_fault {s t : State} (hs : s.fault ≠ none) (h : step s = .next t) :
    t.fault = s.fault ∨ t.fault = none := by
  rcases step_cases h with ⟨-, rfl⟩ | ⟨_, _, _, _, -, rfl⟩ | ⟨_, _, _, rest, _, -, -, -, hw⟩ | ⟨rest, -, rfl⟩
  · exact .inl rfl
  · exact .inl rfl
  · exact writeTarget_keeps_or_drops_fault (s := atWrite rest s) hs hw
  · exact .inr (hardReset_fault (accept rest s))

end Sys2Proof.Machine

open Sys2Proof Sys2Proof.Machine

/-- Settles O7: no operation of a step writes a second record over a held one, and CLR_FAULT and SOFT_RESET pass the
gate and drop it. -/
theorem heldRecordIsNeverOverwritten : Obligations.HeldRecordIsNeverOverwritten := by
  refine ⟨fun s t r hr h => ?_, fun s rest w hp hw => ?_⟩
  · rw [← hr]
    exact step_keeps_or_drops_fault (hr ▸ Option.some_ne_none r) h
  · rw [step_writeCmd hp]
    exact issue_drops_fault hw (atWrite rest s)
end

section
/-! Hardware reset: the block it leaves, and the invariant there (70_reset_and_hazards.md R400). -/
namespace Sys2Proof.Machine

/-- After hardware reset no entry of any table counts as written (R400, R402). -/
theorem tableGet_unwritten (i : Nat) :
    tableGet Memory.unwritten.freq i = none ∧ tableGet Memory.unwritten.cum i = none
      ∧ tableGet Memory.unwritten.lut i = none ∧ tableGet Memory.unwritten.esc i = none
      ∧ tableGet Memory.unwritten.pay i = none ∧ tableGet Memory.unwritten.lb i = none
      ∧ tableGet Memory.unwritten.cp i = none :=
  ⟨tableGet_nil i, tableGet_nil i, tableGet_nil i, tableGet_nil i, tableGet_nil i, tableGet_nil i, tableGet_nil i⟩

/-- The coder is in IDLE at reset, where the interval asks nothing. -/
theorem EncoderInterval.resetWith (c : Params) : EncoderInterval (State.resetWith c) := of_rmode nofun

end Sys2Proof.Machine

open Sys2Proof Sys2Proof.Machine

/-- Settles O11: the reset state shows the parameters in the CAP registers and 0 elsewhere, its tables are empty, and
the reset event is one step to it. -/
theorem resetLeavesEveryRegister : Obligations.ResetLeavesEveryRegister := by
  refine ⟨fun c => ⟨rfl, fun r hr => readReg_resetWith_eq_zero c ?_, rfl, rfl, rfl, rfl, rfl, rfl, rfl, rfl, rfl,
    tableGet_unwritten⟩, by decide, fun _ _ hp => step_hardReset hp⟩
  revert r
  decide

/-- Settles O12: the invariant holds at reset for legal parameters, which those of the test vectors are. -/
theorem invariantHoldsAtReset : Obligations.InvariantHoldsAtReset := by
  have hreset (c : Params) (hc : c.legal = true) : Inv (State.resetWith c) ∧ EncoderInterval (State.resetWith c) :=
    ⟨Inv.resetWith hc, Sys2Proof.Machine.EncoderInterval.resetWith c⟩
  exact ⟨hreset Params.testVectors (by decide), hreset⟩
end
